-- ==== Sys2Proof/Word.lean ====
section
/-! DEFINITION. The word types of TP4000-FSD: the widths spec/00_scope.md R8 and spec/30_encoding.md
R80, R81, R84 give (a received byte, its two nibbles, a segment key, an input word). -/

namespace Sys2Proof

/-- One received byte, 8 bits (R80). -/
abbrev Byte := BitVec 8

/-- A data nibble or a position nibble, 4 bits (R9, R80). -/
abbrev Nibble := BitVec 4

/-- The key of the Segment Table, 7 bits (R7 `KEY_W`, R85). -/
abbrev SegKey := BitVec 7

/-- The input word `kind[9:8] ++ payload[7:0]`, 10 bits (R81). -/
abbrev InputWord := BitVec 10

end Sys2Proof
end

