-- ==== Sys2Proof/Config.lean ====
section
/-! DEFINITION. The block's configuration (spec/00_scope.md R7): what is fixed when the block is built and
cannot be written while it runs (spec/20_memory.md R62), as one record of plain data. The machine takes it
as an argument: State carries the record, and no step changes it (assumption log 25). The tables are
constrained by spec/42_decode_digits.md R174 and spec/43_decode_flags.md R203 (the checks stand in
WellFormed.lean). The identities are those of R173 and R201. -/

namespace Sys2Proof

/-- The twelve characters the Segment Table can show: the ten digits, blank and 'L' (R173). -/
inductive DisplayChar
  | digit (d : Fin 10)
  | blank
  | el
  deriving DecidableEq, Repr

/-- `Scale` identities (R201). -/
inductive ScaleId
  | nano | micro | milli | kilo | mega
  deriving DecidableEq, Repr

/-- `Unit` identities: the five the source names (R201), `PERCENT` of the reference table (R204), and
any further one an admissible table may hold (R203 item 5). -/
inductive UnitId
  | volts | amps | ohms | farads | hertz | percent
  | other (n : Nat)
  deriving DecidableEq, Repr

/-- `Submode` identities (R201). -/
inductive SubmodeId
  | ac | dc | diode | continuity
  deriving DecidableEq, Repr

/-- `Mode` identities: the four the source names (R201), `RS232` of the reference table (R204), and any
further one an admissible table may hold (R203 item 5). -/
inductive ModeId
  | delta | hold | batteryLow | autoRange | rs232
  | other (n : Nat)
  deriving DecidableEq, Repr

/-- The six frame positions that carry flag bits (R7 `FLAG_BYTES`, R86). -/
inductive FlagPos
  | p1 | p10 | p11 | p12 | p13 | p14
  deriving DecidableEq, Repr

/-- What the Flag Table holds at one position: an identity of one of the five kinds of R201. A reserved
position's identity `RSV_i_j` is named by its own position, so the entry needs no name. -/
inductive FlagEntry
  | scale (p : ScaleId)
  | unit (u : UnitId)
  | submode (s : SubmodeId)
  | mode (m : ModeId)
  | reserved
  deriving DecidableEq, Repr

/-- The four digit slots, leftmost first (R9). -/
inductive SlotNo
  | s1 | s2 | s3 | s4
  deriving DecidableEq, Repr

/-- One row of a Flag Table: the entries of the four bits of one flag position. -/
structure FlagRow where
  b3 : FlagEntry
  b2 : FlagEntry
  b1 : FlagEntry
  b0 : FlagEntry
  deriving DecidableEq, Repr

/-- A Flag Table, total on the 24 addresses (R57, R203 item 1). -/
structure FlagRows where
  p1 : FlagRow
  p10 : FlagRow
  p11 : FlagRow
  p12 : FlagRow
  p13 : FlagRow
  p14 : FlagRow
  deriving DecidableEq, Repr

/-- The configuration record (R7): the counter width and the two tables, as plain data. -/
structure Config where
  /-- `ATT_W`, the width of `max_att`, `discards` and `out_count`. -/
  attW : Nat
  /-- `SEG_TABLE`: its entries, each a key and what it shows. -/
  segRows : List (SegKey × DisplayChar)
  /-- `FLAG_TABLE`. -/
  flagRows : FlagRows
  deriving DecidableEq, Repr

/-- `SEG_TABLE(key)`: what a key shows, `none` where it has no entry (R56). -/
def Config.segTable (c : Config) (k : SegKey) : Option DisplayChar :=
  (c.segRows.find? fun r => r.1 == k).map (·.2)

/-- The entry of a bit of a row. -/
def FlagRow.entry (r : FlagRow) : Fin 4 → FlagEntry
  | 3 => r.b3
  | 2 => r.b2
  | 1 => r.b1
  | 0 => r.b0

/-- The row of a flag position. -/
def FlagRows.row (t : FlagRows) : FlagPos → FlagRow
  | .p1 => t.p1
  | .p10 => t.p10
  | .p11 => t.p11
  | .p12 => t.p12
  | .p13 => t.p13
  | .p14 => t.p14

/-- `FLAG_TABLE(i, j)` (R57). -/
def Config.flagTable (c : Config) (p : FlagPos) (j : Fin 4) : FlagEntry := (c.flagRows.row p).entry j

end Sys2Proof
end

