-- ==== Sys2Proof/Syntax.lean ====
section
/-! DEFINITION. Syntax: one constructor per row of spec/opcode_table.json (66 rows, spec/30_encoding.md R88
and R98), and the words the rows are encoded in. The 16 byte operations and the three control words are
the block's input words (R81, R88); `reset` is the `rst` pin (R290); the slot and flag-byte operations
are the operations of the Frame Decoder (R170, R200), with the frame content they read as their operand;
the 12 segment keys and the 24 flag bits are the second-level rows of R98. -/

namespace Sys2Proof

/-- The operations of the block. -/
inductive Instr
  /-- `TAG0 d`: byte with tag 0 (R161). -/
  | tag0 (d : Nibble)
  /-- `POS1 d`: byte with tag 1 (R147). -/
  | pos1 (d : Nibble)
  /-- `POS2 d`: byte with tag 2 (R148). -/
  | pos2 (d : Nibble)
  /-- `POS3 d`: byte with tag 3 (R149). -/
  | pos3 (d : Nibble)
  /-- `POS4 d`: byte with tag 4 (R150). -/
  | pos4 (d : Nibble)
  /-- `POS5 d`: byte with tag 5 (R151). -/
  | pos5 (d : Nibble)
  /-- `POS6 d`: byte with tag 6 (R152). -/
  | pos6 (d : Nibble)
  /-- `POS7 d`: byte with tag 7 (R153). -/
  | pos7 (d : Nibble)
  /-- `POS8 d`: byte with tag 8 (R154). -/
  | pos8 (d : Nibble)
  /-- `POS9 d`: byte with tag 9 (R155). -/
  | pos9 (d : Nibble)
  /-- `POS10 d`: byte with tag 10 (R156). -/
  | pos10 (d : Nibble)
  /-- `POS11 d`: byte with tag 11 (R157). -/
  | pos11 (d : Nibble)
  /-- `POS12 d`: byte with tag 12 (R158). -/
  | pos12 (d : Nibble)
  /-- `POS13 d`: byte with tag 13 (R159). -/
  | pos13 (d : Nibble)
  /-- `POS14 d`: byte with tag 14 (R160). -/
  | pos14 (d : Nibble)
  /-- `TAG15 d`: byte with tag 15 (R162). -/
  | tag15 (d : Nibble)
  /-- `START` (R121). `m` is the attempt limit, a natural number below `2^ATT_W` (R6; WellFormed.lean). -/
  | start (m : Nat)
  /-- `TIMEOUT` (R122). The payload bits are ignored (R92), so they are no operand. -/
  | timeout
  /-- `XFAIL` (R123). The payload bits are ignored (R92), so they are no operand. -/
  | xfail
  /-- `RESET`, the `rst` pin (R290). -/
  | reset
  /-- `SLOT1` on the slot word of positions 2 and 3 (R179). -/
  | slot1 (fb : Bool) (key : SegKey)
  /-- `SLOT2` on the slot word of positions 4 and 5 (R180). -/
  | slot2 (fb : Bool) (key : SegKey)
  /-- `SLOT3` on the slot word of positions 6 and 7 (R181). -/
  | slot3 (fb : Bool) (key : SegKey)
  /-- `SLOT4` on the slot word of positions 8 and 9 (R182). -/
  | slot4 (fb : Bool) (key : SegKey)
  /-- `FLAGS1` on the data nibble of position 1 (R205). -/
  | flags1 (b : Nibble)
  /-- `FLAGS10` on the data nibble of position 10 (R206). -/
  | flags10 (b : Nibble)
  /-- `FLAGS11` on the data nibble of position 11 (R207). -/
  | flags11 (b : Nibble)
  /-- `FLAGS12` on the data nibble of position 12 (R208). -/
  | flags12 (b : Nibble)
  /-- `FLAGS13` on the data nibble of position 13 (R209). -/
  | flags13 (b : Nibble)
  /-- `FLAGS14` on the data nibble of position 14 (R210). -/
  | flags14 (b : Nibble)
  /-- `SEG_0`: look-up of the key 0x7D (R175). -/
  | seg0
  /-- `SEG_1`: look-up of the key 0x05 (R175). -/
  | seg1
  /-- `SEG_2`: look-up of the key 0x5B (R175). -/
  | seg2
  /-- `SEG_3`: look-up of the key 0x1F (R175). -/
  | seg3
  /-- `SEG_4`: look-up of the key 0x27 (R175). -/
  | seg4
  /-- `SEG_5`: look-up of the key 0x3E (R175). -/
  | seg5
  /-- `SEG_6`: look-up of the key 0x7E (R175). -/
  | seg6
  /-- `SEG_7`: look-up of the key 0x15 (R175). -/
  | seg7
  /-- `SEG_8`: look-up of the key 0x7F (R175). -/
  | seg8
  /-- `SEG_9`: look-up of the key 0x3F (R175). -/
  | seg9
  /-- `SEG_BLANK`: look-up of the key 0x00 (R175). -/
  | segBlank
  /-- `SEG_L`: look-up of the key 0x68 (R175). -/
  | segL
  /-- `FLAG_AC`: bit 3 of position 1 is set (R204). -/
  | flagAc
  /-- `FLAG_DC`: bit 2 of position 1 is set (R204). -/
  | flagDc
  /-- `FLAG_AUTO_RANGE`: bit 1 of position 1 is set (R204). -/
  | flagAutoRange
  /-- `FLAG_RS232`: bit 0 of position 1 is set (R204). -/
  | flagRs232
  /-- `FLAG_MICRO`: bit 3 of position 10 is set (R204). -/
  | flagMicro
  /-- `FLAG_NANO`: bit 2 of position 10 is set (R204). -/
  | flagNano
  /-- `FLAG_KILO`: bit 1 of position 10 is set (R204). -/
  | flagKilo
  /-- `FLAG_DIODE`: bit 0 of position 10 is set (R204). -/
  | flagDiode
  /-- `FLAG_MILLI`: bit 3 of position 11 is set (R204). -/
  | flagMilli
  /-- `FLAG_PERCENT`: bit 2 of position 11 is set (R204). -/
  | flagPercent
  /-- `FLAG_MEGA`: bit 1 of position 11 is set (R204). -/
  | flagMega
  /-- `FLAG_CONTINUITY`: bit 0 of position 11 is set (R204). -/
  | flagContinuity
  /-- `FLAG_FARADS`: bit 3 of position 12 is set (R204). -/
  | flagFarads
  /-- `FLAG_OHMS`: bit 2 of position 12 is set (R204). -/
  | flagOhms
  /-- `FLAG_DELTA`: bit 1 of position 12 is set (R204). -/
  | flagDelta
  /-- `FLAG_HOLD`: bit 0 of position 12 is set (R204). -/
  | flagHold
  /-- `FLAG_AMPS`: bit 3 of position 13 is set (R204). -/
  | flagAmps
  /-- `FLAG_VOLTS`: bit 2 of position 13 is set (R204). -/
  | flagVolts
  /-- `FLAG_HERTZ`: bit 1 of position 13 is set (R204). -/
  | flagHertz
  /-- `FLAG_BATTERY_LOW`: bit 0 of position 13 is set (R204). -/
  | flagBatteryLow
  /-- `FLAG_RSV_14_3`: bit 3 of position 14 is set (R204). -/
  | flagRsv14_3
  /-- `FLAG_RSV_14_2`: bit 2 of position 14 is set (R204). -/
  | flagRsv14_2
  /-- `FLAG_RSV_14_1`: bit 1 of position 14 is set (R204). -/
  | flagRsv14_1
  /-- `FLAG_RSV_14_0`: bit 0 of position 14 is set (R204). -/
  | flagRsv14_0
  deriving DecidableEq, Repr

/-- A word offered to the block, with its format (R80, R81, R84, R98) and, where the table gives the
position of the word in the row's fields and not in its bits, that position. -/
inductive PortWord
  /-- Format `PIN`: the level of the `rst` pin; 1 is the `RESET` event. -/
  | pin (level : BitVec 1)
  /-- Format `IW`: the input word. -/
  | iw (w : InputWord)
  /-- The abstract event `START(m)` of R6, for the limits that the 8 payload bits of format `IW` cannot
  hold, where `ATT_W` is greater (R81: a model of the abstract events need not use the format). -/
  | startEvent (m : Nat)
  /-- Format `SLOT`: one slot's 8 bits. -/
  | slot (s : SlotNo) (w : BitVec 8)
  /-- Format `FLAGNIBBLE`: the data nibble of a flag position. -/
  | flagNibble (p : FlagPos) (w : Nibble)
  /-- Format `SEGKEY`: a segment key. -/
  | segKey (w : SegKey)
  /-- Format `FLAGBIT`: a data nibble that names one flag bit of a position. -/
  | flagBit (p : FlagPos) (w : Nibble)
  deriving DecidableEq, Repr

end Sys2Proof
end

