-- ==== Sys2Proof/WellFormed.lean ====
section
/-! DEFINITION. The checks: an instruction against the configured counter width (spec/00_scope.md R6, R7;
spec/93_implementation_defined.md U15), and a configuration's two tables against the constraints of
spec/42_decode_digits.md R174 and spec/43_decode_flags.md R203. -/

namespace Sys2Proof

/-- An instruction fits the configuration: a `START` operand is below `2^ATT_W` (R6, R121); every other
operand has exactly the width its type gives it. -/
def Instr.wf (c : Config) : Instr → Bool
  | .start m => decide (m < 2 ^ c.attW)
  | .tag0 _ | .pos1 _ | .pos2 _ | .pos3 _ | .pos4 _ | .pos5 _ | .pos6 _ | .pos7 _ | .pos8 _
  | .pos9 _ | .pos10 _ | .pos11 _ | .pos12 _ | .pos13 _ | .pos14 _ | .tag15 _ | .timeout
  | .xfail | .reset | .slot1 _ _ | .slot2 _ _ | .slot3 _ _ | .slot4 _ _ | .flags1 _
  | .flags10 _ | .flags11 _ | .flags12 _ | .flags13 _ | .flags14 _ | .seg0 | .seg1 | .seg2
  | .seg3 | .seg4 | .seg5 | .seg6 | .seg7 | .seg8 | .seg9 | .segBlank | .segL | .flagAc
  | .flagDc | .flagAutoRange | .flagRs232 | .flagMicro | .flagNano | .flagKilo | .flagDiode
  | .flagMilli | .flagPercent | .flagMega | .flagContinuity | .flagFarads | .flagOhms
  | .flagDelta | .flagHold | .flagAmps | .flagVolts | .flagHertz | .flagBatteryLow
  | .flagRsv14_3 | .flagRsv14_2 | .flagRsv14_1 | .flagRsv14_0 => true

/-- The twelve display characters (R173). -/
def allChars : List DisplayChar := (List.finRange 10).map .digit ++ [.blank, .el]

/-- R174: no key has two entries (item 2), and every character is the image of exactly one key, which makes
twelve entries (item 3). Items 1 and 4 are in the type. -/
def Config.segOk (c : Config) : Bool :=
  decide (c.segRows.map (·.1)).Nodup && allChars.all fun ch => (c.segRows.map (·.2)).count ch == 1

/-- The counters have at least one bit, without which the first discard would not fit (R24; assumption
log 7). -/
def Config.widthOk (c : Config) : Bool := decide (1 ≤ c.attW)

/-- The 24 addresses of the Flag Table (R86). -/
def allFlagAddrs : List (FlagPos × Fin 4) :=
  [FlagPos.p1, .p10, .p11, .p12, .p13, .p14].flatMap fun p => (List.finRange 4).map fun j => (p, j)

/-- The 18 identities the source names (R201, R203 item 2). -/
def namedEntries : List FlagEntry :=
  ([.nano, .micro, .milli, .kilo, .mega].map FlagEntry.scale)
    ++ ([.volts, .amps, .ohms, .farads, .hertz].map FlagEntry.unit)
    ++ ([.ac, .dc, .diode, .continuity].map FlagEntry.submode)
    ++ ([.delta, .hold, .batteryLow, .autoRange].map FlagEntry.mode)

/-- How many of the 24 addresses hold an entry. -/
def Config.flagCount (c : Config) (e : FlagEntry) : Nat :=
  (allFlagAddrs.filter fun a => c.flagTable a.1 a.2 = e).length

/-- R203 item 2: each named identity is at exactly one address. -/
def Config.namedOk (c : Config) : Bool := namedEntries.all fun e => c.flagCount e == 1

/-- R203 item 3: exactly `N_RESERVED` = 4 reserved addresses. -/
def Config.reservedOk (c : Config) : Bool := c.flagCount .reserved == 4

/-- R203 item 4: no identity that is not reserved is at two addresses. -/
def Config.distinctOk (c : Config) : Bool :=
  allFlagAddrs.all fun a =>
    c.flagTable a.1 a.2 == .reserved || c.flagCount (c.flagTable a.1 a.2) == 1

/-- A configuration the spec admits (R174, R203, R293 step 1). -/
def Config.wf (c : Config) : Bool := c.widthOk && c.segOk && c.namedOk && c.reservedOk && c.distinctOk

end Sys2Proof
end

