-- ==== Sys2Proof/Decode.lean ====
section
/-! DEFINITION. Decode: from a word to an instruction, total, rejecting by name; then the encoder. The layouts
are spec/30_encoding.md R80 (byte), R81 and R88 (input word), R84 (slot) and R98 (the second-level rows:
segment keys of R175, flag bits of R204); the bit-field helpers of R8 and R9 stand first. -/

namespace Sys2Proof

/-- `tag(b) = b[7:4]` (R9, R87). -/
def tagOf (b : Byte) : Nibble := b.extractLsb' 4 4

/-- `data(b) = b[3:0]` (R9). -/
def dataOf (b : Byte) : Nibble := b.extractLsb' 0 4

/-- The byte with a tag and a data nibble, `(t << 4) | d` (R80, R97). -/
def byteOf (t d : Nibble) : Byte := t ++ d

/-- `kind[9:8]` of an input word (R81). -/
def kindOf (w : InputWord) : BitVec 2 := w.extractLsb' 8 2

/-- `payload[7:0]` of an input word (R81). -/
def payloadOf (w : InputWord) : BitVec 8 := w.extractLsb' 0 8

/-- The input word of a kind and a payload (R81). -/
def inputWordOf (kind : BitVec 2) (payload : BitVec 8) : InputWord := kind ++ payload

/-- The flag bit `fb` of a slot word, bit 7 (R84). -/
def slotFlag (w : BitVec 8) : Bool := w.getLsbD 7

/-- The key of a slot word, bits 6:0 (R84). -/
def slotKey (w : BitVec 8) : SegKey := w.extractLsb' 0 7

/-- The slot word of a flag bit and a key (R84). -/
def slotWordOf (fb : Bool) (key : SegKey) : BitVec 8 := BitVec.ofBool fb ++ key

/-- Why a word is no row of the opcode table. What the machine does with such a word stands in
Machine/Fetch.lean. -/
inductive DecodeError
  /-- The `rst` pin is low: no event is offered (R34, R290). -/
  | pinLow
  /-- The key has no row among the 12 `SEGKEY` rows (R98). -/
  | unmappedKey (k : SegKey)
  /-- The nibble does not name exactly one flag bit (R86). -/
  | notOneFlagBit (p : FlagPos) (w : Nibble)
  deriving DecidableEq, Repr

/-- The mnemonic of a byte is a function of its tag alone (R88, R141); all 256 bytes decode (R80). -/
def decodeByte (b : Byte) : Instr :=
  match (tagOf b).toNat with
  | 0 => .tag0 (dataOf b)
  | 1 => .pos1 (dataOf b)
  | 2 => .pos2 (dataOf b)
  | 3 => .pos3 (dataOf b)
  | 4 => .pos4 (dataOf b)
  | 5 => .pos5 (dataOf b)
  | 6 => .pos6 (dataOf b)
  | 7 => .pos7 (dataOf b)
  | 8 => .pos8 (dataOf b)
  | 9 => .pos9 (dataOf b)
  | 10 => .pos10 (dataOf b)
  | 11 => .pos11 (dataOf b)
  | 12 => .pos12 (dataOf b)
  | 13 => .pos13 (dataOf b)
  | 14 => .pos14 (dataOf b)
  | _ => .tag15 (dataOf b)

/-- The input word: every one of the 1024 words is exactly one event (R81, R88). -/
def decodeInputWord (w : InputWord) : Instr :=
  match (kindOf w).toNat with
  | 0 => decodeByte (payloadOf w)
  | 1 => .start (payloadOf w).toNat
  | 2 => .timeout
  | _ => .xfail

/-- The slot operations (R179 to R182). -/
def decodeSlotWord (s : SlotNo) (w : BitVec 8) : Instr :=
  match s with
  | .s1 => .slot1 (slotFlag w) (slotKey w)
  | .s2 => .slot2 (slotFlag w) (slotKey w)
  | .s3 => .slot3 (slotFlag w) (slotKey w)
  | .s4 => .slot4 (slotFlag w) (slotKey w)

/-- The flag-byte operations (R205 to R210). -/
def decodeFlagNibble (p : FlagPos) (w : Nibble) : Instr :=
  match p with
  | .p1 => .flags1 w
  | .p10 => .flags10 w
  | .p11 => .flags11 w
  | .p12 => .flags12 w
  | .p13 => .flags13 w
  | .p14 => .flags14 w

/-- The 12 `SEGKEY` rows (R175). -/
def decodeSegKey (k : SegKey) : Except DecodeError Instr :=
  match k.toNat with
  | 0x7D => .ok .seg0
  | 0x05 => .ok .seg1
  | 0x5B => .ok .seg2
  | 0x1F => .ok .seg3
  | 0x27 => .ok .seg4
  | 0x3E => .ok .seg5
  | 0x7E => .ok .seg6
  | 0x15 => .ok .seg7
  | 0x7F => .ok .seg8
  | 0x3F => .ok .seg9
  | 0x00 => .ok .segBlank
  | 0x68 => .ok .segL
  | _ => .error (.unmappedKey k)

/-- The 24 `FLAGBIT` rows (R204): position, and the one bit of the mask. -/
def decodeFlagBit (p : FlagPos) (w : Nibble) : Except DecodeError Instr :=
  match p, w.toNat with
  | .p1, 8 => .ok .flagAc
  | .p1, 4 => .ok .flagDc
  | .p1, 2 => .ok .flagAutoRange
  | .p1, 1 => .ok .flagRs232
  | .p10, 8 => .ok .flagMicro
  | .p10, 4 => .ok .flagNano
  | .p10, 2 => .ok .flagKilo
  | .p10, 1 => .ok .flagDiode
  | .p11, 8 => .ok .flagMilli
  | .p11, 4 => .ok .flagPercent
  | .p11, 2 => .ok .flagMega
  | .p11, 1 => .ok .flagContinuity
  | .p12, 8 => .ok .flagFarads
  | .p12, 4 => .ok .flagOhms
  | .p12, 2 => .ok .flagDelta
  | .p12, 1 => .ok .flagHold
  | .p13, 8 => .ok .flagAmps
  | .p13, 4 => .ok .flagVolts
  | .p13, 2 => .ok .flagHertz
  | .p13, 1 => .ok .flagBatteryLow
  | .p14, 8 => .ok .flagRsv14_3
  | .p14, 4 => .ok .flagRsv14_2
  | .p14, 2 => .ok .flagRsv14_1
  | .p14, 1 => .ok .flagRsv14_0
  | p, _ => .error (.notOneFlagBit p w)

/-- The decoder: total on every word of every format. -/
def decode : PortWord → Except DecodeError Instr
  | .pin level => if level = 1 then .ok .reset else .error .pinLow
  | .iw w => .ok (decodeInputWord w)
  | .startEvent m => .ok (.start m)
  | .slot s w => .ok (decodeSlotWord s w)
  | .flagNibble p w => .ok (decodeFlagNibble p w)
  | .segKey k => decodeSegKey k
  | .flagBit p w => decodeFlagBit p w

/-- The encoder, from the same tables (R81, R88, R98). The ignored payload of `TIMEOUT` and `XFAIL` is
written as 0 (R96). -/
def encode : Instr → PortWord
  | .tag0 d => .iw (inputWordOf 0 (byteOf 0 d))
  | .pos1 d => .iw (inputWordOf 0 (byteOf 1 d))
  | .pos2 d => .iw (inputWordOf 0 (byteOf 2 d))
  | .pos3 d => .iw (inputWordOf 0 (byteOf 3 d))
  | .pos4 d => .iw (inputWordOf 0 (byteOf 4 d))
  | .pos5 d => .iw (inputWordOf 0 (byteOf 5 d))
  | .pos6 d => .iw (inputWordOf 0 (byteOf 6 d))
  | .pos7 d => .iw (inputWordOf 0 (byteOf 7 d))
  | .pos8 d => .iw (inputWordOf 0 (byteOf 8 d))
  | .pos9 d => .iw (inputWordOf 0 (byteOf 9 d))
  | .pos10 d => .iw (inputWordOf 0 (byteOf 10 d))
  | .pos11 d => .iw (inputWordOf 0 (byteOf 11 d))
  | .pos12 d => .iw (inputWordOf 0 (byteOf 12 d))
  | .pos13 d => .iw (inputWordOf 0 (byteOf 13 d))
  | .pos14 d => .iw (inputWordOf 0 (byteOf 14 d))
  | .tag15 d => .iw (inputWordOf 0 (byteOf 15 d))
  | .start m => if m < 256 then .iw (inputWordOf 1 (BitVec.ofNat 8 m)) else .startEvent m
  | .timeout => .iw (inputWordOf 2 0)
  | .xfail => .iw (inputWordOf 3 0)
  | .reset => .pin 1
  | .slot1 fb key => .slot .s1 (slotWordOf fb key)
  | .slot2 fb key => .slot .s2 (slotWordOf fb key)
  | .slot3 fb key => .slot .s3 (slotWordOf fb key)
  | .slot4 fb key => .slot .s4 (slotWordOf fb key)
  | .flags1 b => .flagNibble .p1 b
  | .flags10 b => .flagNibble .p10 b
  | .flags11 b => .flagNibble .p11 b
  | .flags12 b => .flagNibble .p12 b
  | .flags13 b => .flagNibble .p13 b
  | .flags14 b => .flagNibble .p14 b
  | .seg0 => .segKey 0x7D
  | .seg1 => .segKey 0x05
  | .seg2 => .segKey 0x5B
  | .seg3 => .segKey 0x1F
  | .seg4 => .segKey 0x27
  | .seg5 => .segKey 0x3E
  | .seg6 => .segKey 0x7E
  | .seg7 => .segKey 0x15
  | .seg8 => .segKey 0x7F
  | .seg9 => .segKey 0x3F
  | .segBlank => .segKey 0x00
  | .segL => .segKey 0x68
  | .flagAc => .flagBit .p1 8
  | .flagDc => .flagBit .p1 4
  | .flagAutoRange => .flagBit .p1 2
  | .flagRs232 => .flagBit .p1 1
  | .flagMicro => .flagBit .p10 8
  | .flagNano => .flagBit .p10 4
  | .flagKilo => .flagBit .p10 2
  | .flagDiode => .flagBit .p10 1
  | .flagMilli => .flagBit .p11 8
  | .flagPercent => .flagBit .p11 4
  | .flagMega => .flagBit .p11 2
  | .flagContinuity => .flagBit .p11 1
  | .flagFarads => .flagBit .p12 8
  | .flagOhms => .flagBit .p12 4
  | .flagDelta => .flagBit .p12 2
  | .flagHold => .flagBit .p12 1
  | .flagAmps => .flagBit .p13 8
  | .flagVolts => .flagBit .p13 4
  | .flagHertz => .flagBit .p13 2
  | .flagBatteryLow => .flagBit .p13 1
  | .flagRsv14_3 => .flagBit .p14 8
  | .flagRsv14_2 => .flagBit .p14 4
  | .flagRsv14_1 => .flagBit .p14 2
  | .flagRsv14_0 => .flagBit .p14 1

/-- The reader answers an instruction. -/
def decodes (r : Except DecodeError Instr) : Bool :=
  match r with
  | .ok _ => true
  | .error _ => false

/-- A 4-bit table word: one flag bit of position 1, else that position's whole nibble. -/
def tableNibble (w : Nat) : PortWord :=
  if decodes (decodeFlagBit .p1 (BitVec.ofNat 4 w)) then .flagBit .p1 (BitVec.ofNat 4 w)
  else .flagNibble .p1 (BitVec.ofNat 4 w)

/-- An 8-bit table word. The table numbers the bits of a row's word and says neither its format nor its
position, so the word is the first of these that it fits: a mapped segment key, one flag bit of position 1,
the word of slot 1 (assumption log 11). -/
def tableByte (w : Nat) : PortWord :=
  if w < 128 && decodes (decodeSegKey (BitVec.ofNat 7 w)) then .segKey (BitVec.ofNat 7 w)
  else if w < 16 && decodes (decodeFlagBit .p1 (BitVec.ofNat 4 w)) then .flagBit .p1 (BitVec.ofNat 4 w)
  else .slot .s1 (BitVec.ofNat 8 w)

/-- The operation a table word of a given size stands for: the widths 1, 4 and 7 are the formats `PIN`,
`FLAGBIT` and `SEGKEY`, 8 is `tableByte`, and 9 bits or more are an input word (16 bits hold its 10).
`none` when a bit is set that the format does not have. -/
def tableWord (nbits w : Nat) : Option PortWord :=
  if nbits = 1 then if w < 2 then some (.pin (BitVec.ofNat 1 w)) else none
  else if nbits = 4 then if w < 16 then some (tableNibble w) else none
  else if nbits = 7 then if w < 128 then some (.segKey (BitVec.ofNat 7 w)) else none
  else if nbits = 8 then if w < 256 then some (tableByte w) else none
  else if 9 ≤ nbits then if w < 1024 then some (.iw (BitVec.ofNat 10 w)) else none
  else none

/-- The instruction the decoder reads from a word numbered as the opcode table numbers it. -/
def decodeTableWord (nbits w : Nat) : Option Instr :=
  match tableWord nbits w with
  | none => none
  | some pw => match decode pw with
    | .ok i => some i
    | .error _ => none

end Sys2Proof
end

