-- ==== Sys2Proof/Machine/Tables.lean ====
section
/-! DEFINITION. The reference tables `SEG_TABLE_REF` (spec/42_decode_digits.md R175) and `FLAG_TABLE_REF`
(spec/43_decode_flags.md R204), and the configuration of State.reset, with them and `ATT_W` = 8 (R81).
PRESUMED: the spec takes both tables' contents from general knowledge (spec/93_implementation_defined.md
G1, G2; assumption log 5, 6). Every function takes any configuration. -/

namespace Sys2Proof.Machine

/-- `SEG_TABLE_REF` (R175). -/
def segRowsRef : List (SegKey × DisplayChar) :=
  [(0x7D, .digit 0), (0x05, .digit 1), (0x5B, .digit 2), (0x1F, .digit 3), (0x27, .digit 4), (0x3E, .digit 5),
    (0x7E, .digit 6), (0x15, .digit 7), (0x7F, .digit 8), (0x3F, .digit 9), (0x00, .blank), (0x68, .el)]

/-- `FLAG_TABLE_REF` (R204), each row from bit 3 to bit 0. -/
def flagRowsRef : FlagRows where
  p1 := ⟨.submode .ac, .submode .dc, .mode .autoRange, .mode .rs232⟩
  p10 := ⟨.scale .micro, .scale .nano, .scale .kilo, .submode .diode⟩
  p11 := ⟨.scale .milli, .unit .percent, .scale .mega, .submode .continuity⟩
  p12 := ⟨.unit .farads, .unit .ohms, .mode .delta, .mode .hold⟩
  p13 := ⟨.unit .amps, .unit .volts, .unit .hertz, .mode .batteryLow⟩
  p14 := ⟨.reserved, .reserved, .reserved, .reserved⟩

/-- The reference configuration. -/
def referenceConfig : Config where
  attW := 8
  segRows := segRowsRef
  flagRows := flagRowsRef

end Sys2Proof.Machine
end

