-- ==== Sys2Proof/Machine/State.lean ====
section
/-! DEFINITION. The state. The eight registers are the complete architectural state (spec/10_state.md R20 to R28)
with the reset values of R35; four more fields are the model's own and no register of the block: the
configuration the machine takes as an argument (`config`), the offers of the environment still to be taken
(`input`), what the last step answered (`answer`, the step's return value of spec/40_sync_control.md R120)
and the workspace the decode operations write (`work`). -/

namespace Sys2Proof.Machine

/-- `phase` (R23). -/
inductive Phase
  | idle
  | hunt
  deriving DecidableEq, Repr

/-- `result` (R26); the codes 5 to 7 are never produced and have no constructor
(spec/93_implementation_defined.md U8). -/
inductive Result
  /-- 0 `NONE` -/
  | none
  /-- 1 `OK` -/
  | ok
  /-- 2 `ERR_SYNC_ATTEMPTS` -/
  | errSyncAttempts
  /-- 3 `ERR_SYNC_TIME` -/
  | errSyncTime
  /-- 4 `ERR_TRANSPORT` -/
  | errTransport
  deriving DecidableEq, Repr

/-- A frame: the 14 bytes at positions 1 to 14 (R9, R53). -/
structure Frame where
  f1 : Byte
  f2 : Byte
  f3 : Byte
  f4 : Byte
  f5 : Byte
  f6 : Byte
  f7 : Byte
  f8 : Byte
  f9 : Byte
  f10 : Byte
  f11 : Byte
  f12 : Byte
  f13 : Byte
  f14 : Byte
  deriving DecidableEq, Repr

/-- The three exceptions (spec/60_exceptions.md R260). -/
inductive Exc
  | syncAttempts
  | syncTime
  | transport
  deriving DecidableEq, Repr

/-- The cause of a `SyncError` (R30, R260). -/
inductive SyncCause
  | attempts
  | time
  deriving DecidableEq, Repr

/-- The outcome of a capture (R30), each with its discard count. -/
inductive CaptureOutcome
  | frame (F : Frame) (n : Nat)
  | syncError (cause : SyncCause) (n : Nat)
  | transportError (n : Nat)
  deriving DecidableEq, Repr

/-- What a step answered (R120): an event that was not enabled, an accepted one with its optional
outcome; `idle` where the environment offered nothing. -/
inductive Answer
  | idle
  | notEnabled
  | accepted (outcome : Option CaptureOutcome)
  deriving DecidableEq, Repr

/-- `ch_s`: a display character or the invalid-digit marker (spec/42_decode_digits.md R172). -/
inductive SlotChar
  | char (c : DisplayChar)
  | invalid
  deriving DecidableEq, Repr

/-- What one slot operation writes (R171, R172, R179 to R182): the flag bit (the sign on slot 1, the
decimal point before the digit on slots 2 to 4), the key, the character, and whether the look-up
succeeded. -/
structure SlotOut where
  fb : Bool
  key : SegKey
  ch : SlotChar
  valid : Bool
  deriving DecidableEq, Repr

/-- The FlagSet (spec/43_decode_flags.md R212). A set is the strictly rising list of its members in the
order of R212's bit numbers, so equal sets are equal lists. -/
structure FlagSet where
  scaleSet : List ScaleId
  unitSet : List UnitId
  submodeSet : List SubmodeId
  modeSet : List ModeId
  reservedFlags : List (FlagPos × Fin 4)
  /-- `n[1] ++ n[10] ++ n[11] ++ n[12] ++ n[13] ++ n[14]`. -/
  rawFlags : BitVec 24
  deriving DecidableEq, Repr

/-- All five sets empty and no raw bit set: how a frame's matching starts (R202). -/
def FlagSet.empty : FlagSet := ⟨[], [], [], [], [], 0⟩

/-- The decode operations' workspace: what each slot operation wrote, the FlagSet the flag operations
have matched so far, and the last segment key looked up with its answer (spec/20_memory.md R56). -/
structure DecodeWork where
  slot1 : Option SlotOut
  slot2 : Option SlotOut
  slot3 : Option SlotOut
  slot4 : Option SlotOut
  flags : FlagSet
  seg : Option (SegKey × Option DisplayChar)
  deriving DecidableEq, Repr

/-- The workspace before a frame's decode operations. -/
def DecodeWork.empty : DecodeWork := ⟨none, none, none, none, FlagSet.empty, none⟩

/-- The registers that can be without a value (R21, R25, R27, R28), and the decoded fields. -/
inductive Reg
  | cur
  | maxAtt
  | outFrame
  | outCount
  | decoded
  deriving DecidableEq, Repr

/-- Why the machine stops with a fault. -/
inductive Fault
  /-- A register is read that has no value (R37). Raised by a host read of `out_frame`, `out_count` or a
  decoded field without a value, and by a mismatch while `max_att` is `none` or a completion whose `cur`
  has not 13 entries, both of which the invariants I2 and I4 of R29 rule out. Safe: nothing is invented
  for the missing value. -/
  | noValue (r : Reg)
  deriving DecidableEq, Repr

/-- Why the machine refuses. -/
inductive Refusal
  /-- Raised by `exec` for an instruction without a meaning; none is left. Safe. -/
  | notModelled (mnemonic : String)
  /-- Raised by `START(m)` with `m` not below `2^ATT_W`: refused, as spec/93_implementation_defined.md U15
  says; the operand is not expressible (R121). Safe: nothing is done with such an operand. -/
  | operandTooWide (m : Nat)
  deriving DecidableEq, Repr

/-- The machine's state. -/
structure State where
  /-- `phase` (R23). -/
  phase : Phase
  /-- `expect`, 4 bits (R22). -/
  expect : Nibble
  /-- `cur`, in arrival order (R21). -/
  cur : List Byte
  /-- `discards` (R24). -/
  discards : Nat
  /-- `max_att` (R25). -/
  maxAtt : Option Nat
  /-- `result` (R26). -/
  result : Result
  /-- `out_frame` (R27). -/
  outFrame : Option Frame
  /-- `out_count` (R28). -/
  outCount : Option Nat
  /-- The machine's argument, the configuration record (R7), which no step changes (R62, assumption log 25). -/
  config : Config
  /-- The model's own: the environment's offers still to come, the next one first (assumption log 2). -/
  input : List PortWord
  /-- The model's own: the answer of the last step (assumption log 4). -/
  answer : Answer
  /-- The model's own: the decode operations' workspace (assumption log 1). -/
  work : DecodeWork
  deriving DecidableEq, Repr

/-- The state after the `RESET` event (R35), with nothing offered, under the reference configuration. -/
def State.reset : State where
  phase := .idle
  expect := 1
  cur := []
  discards := 0
  maxAtt := none
  result := .none
  outFrame := none
  outCount := none
  config := referenceConfig
  input := []
  answer := .accepted none
  work := DecodeWork.empty

end Sys2Proof.Machine
end

