-- ==== Sys2Proof/Machine/Operands.lean ====
section
/-! DEFINITION. Operand assembly from a frame: positions, nibbles, slot words and flag bits
(spec/00_scope.md R9, spec/30_encoding.md R83 to R87, spec/42_decode_digits.md R171), and the frame as
its 14 bytes in order. -/

namespace Sys2Proof.Machine

/-- The bytes of a frame in arrival order, `F[1]` first (R83). -/
def Frame.toList (F : Frame) : List Byte :=
  [F.f1, F.f2, F.f3, F.f4, F.f5, F.f6, F.f7, F.f8, F.f9, F.f10, F.f11, F.f12, F.f13, F.f14]

/-- The frame of exactly 14 bytes (R55). -/
def frameOfList : List Byte → Option Frame
  | [a, b, c, d, e, f, g, h, i, j, k, l, m, n] => some ⟨a, b, c, d, e, f, g, h, i, j, k, l, m, n⟩
  | _ => none

/-- The byte at a position 1 to 14; the positions 0 and 15 do not exist (R50). -/
def Frame.byteAt (F : Frame) (i : Nat) : Option Byte :=
  if i = 0 then none else F.toList[i - 1]?

/-- The tags of a run of bytes are 1, 2, 3, … in order (R12 RawFrame, R29 I2). -/
abbrev tagsInOrder (l : List Byte) : Prop :=
  l.map tagOf = (List.range l.length).map fun i => BitVec.ofNat 4 (i + 1)

/-- A correctly tagged frame: `tag(F[i]) = i` for `i` in 1 to 14 (R27). -/
abbrev Frame.tagged (F : Frame) : Prop := tagsInOrder F.toList

/-- The two nibbles of a slot: `n[2s]` and `n[2s+1]` (R9, R171). -/
def Frame.slotNibbles (F : Frame) : SlotNo → Nibble × Nibble
  | .s1 => (dataOf F.f2, dataOf F.f3)
  | .s2 => (dataOf F.f4, dataOf F.f5)
  | .s3 => (dataOf F.f6, dataOf F.f7)
  | .s4 => (dataOf F.f8, dataOf F.f9)

/-- `slotbits(s) = n[2s] ++ n[2s+1]` (R84). -/
def Frame.slotWord (F : Frame) (s : SlotNo) : BitVec 8 :=
  (F.slotNibbles s).1 ++ (F.slotNibbles s).2

/-- `fb_s = n[2s][3]` (R171). -/
def Frame.slotFb (F : Frame) (s : SlotNo) : Bool := slotFlag (F.slotWord s)

/-- `key_s = n[2s][2:0] ++ n[2s+1][3:0]` (R85, R171). -/
def Frame.slotKeyOf (F : Frame) (s : SlotNo) : SegKey := slotKey (F.slotWord s)

/-- The data nibble of a flag position (R86). -/
def Frame.flagNibbleOf (F : Frame) : FlagPos → Nibble
  | .p1 => dataOf F.f1
  | .p10 => dataOf F.f10
  | .p11 => dataOf F.f11
  | .p12 => dataOf F.f12
  | .p13 => dataOf F.f13
  | .p14 => dataOf F.f14

/-- The flag bit `(i, j)` is set when `n[i][j] = 1` (R86). -/
def Frame.flagSet (F : Frame) (p : FlagPos) (j : Fin 4) : Bool := (F.flagNibbleOf p).getLsbD j.val

end Sys2Proof.Machine
end

