-- ==== Sys2Proof/Machine/Flags.lean ====
section
/-! DEFINITION. The flag-table matcher (spec/43_decode_flags.md R200 to R212): adding one identity to its
set, one flag byte, and all six of a frame. -/

namespace Sys2Proof.Machine

/-- A flag identity: an entry of the Flag Table, a reserved one named by its address (R201). -/
inductive FlagId
  | scale (x : ScaleId)
  | unit (x : UnitId)
  | submode (x : SubmodeId)
  | mode (x : ModeId)
  | reserved (p : FlagPos) (j : Fin 4)
  deriving DecidableEq, Repr

/-- The identity a table entry at an address stands for (R201). -/
def identityAt (e : FlagEntry) (p : FlagPos) (j : Fin 4) : FlagId :=
  match e with
  | .scale x => .scale x
  | .unit x => .unit x
  | .submode x => .submode x
  | .mode x => .mode x
  | .reserved => .reserved p j

/-- `set ∪ {x}` on a strictly rising list, by a numbering of the members. -/
def setInsert {α : Type} (code : α → Nat) (x : α) : List α → List α
  | [] => [x]
  | y :: ys =>
    if code x < code y then x :: y :: ys
    else if code x = code y then y :: ys
    else y :: setInsert code x ys

/-- The bit numbers of `scaleSet` (R212). -/
def scaleCode : ScaleId → Nat
  | .nano => 0
  | .micro => 1
  | .milli => 2
  | .kilo => 3
  | .mega => 4

/-- The bit numbers of `unitSet` with the reference table (R212). DESIGN CHOICE: further identities follow by
their number, which R212 leaves open (assumption log 14, 27). -/
def unitCode : UnitId → Nat
  | .volts => 0
  | .amps => 1
  | .ohms => 2
  | .farads => 3
  | .hertz => 4
  | .percent => 5
  | .other n => 6 + n

/-- The bit numbers of `submodeSet` (R212). -/
def submodeCode : SubmodeId → Nat
  | .ac => 0
  | .dc => 1
  | .diode => 2
  | .continuity => 3

/-- The bit numbers of `modeSet` with the reference table (R212). DESIGN CHOICE: further identities follow by
their number, which R212 leaves open (assumption log 14, 27). -/
def modeCode : ModeId → Nat
  | .delta => 0
  | .hold => 1
  | .batteryLow => 2
  | .autoRange => 3
  | .rs232 => 4
  | .other n => 5 + n

/-- The place of a flag position from the right in `rawFlags`, whose most significant nibble is `n[1]` (R212). -/
def posIndex : FlagPos → Nat
  | .p1 => 5
  | .p10 => 4
  | .p11 => 3
  | .p12 => 2
  | .p13 => 1
  | .p14 => 0

/-- The bit number of a flag address in `rawFlags` (R212). -/
def rawIndex (p : FlagPos) (j : Fin 4) : Nat := 4 * posIndex p + j.val

/-- The numbering of the reserved addresses: `RSV_14_j` is `j`, the bit R212 gives it with the reference table.
DESIGN CHOICE: an address off position 14 has its bit number in `rawFlags`, which orders the bits of
`reservedFlags` under another table; R212 leaves that order open (assumption log 27). -/
def reservedCode (a : FlagPos × Fin 4) : Nat := rawIndex a.1 a.2

/-- One entry's effect on the five sets: `FlagRead(i, j)` and the `∪` of its kind (R202). -/
def addEntry (e : FlagEntry) (p : FlagPos) (j : Fin 4) (fs : FlagSet) : FlagSet :=
  match e with
  | .scale x => { fs with scaleSet := setInsert scaleCode x fs.scaleSet }
  | .unit x => { fs with unitSet := setInsert unitCode x fs.unitSet }
  | .submode x => { fs with submodeSet := setInsert submodeCode x fs.submodeSet }
  | .mode x => { fs with modeSet := setInsert modeCode x fs.modeSet }
  | .reserved => { fs with reservedFlags := setInsert reservedCode (p, j) fs.reservedFlags }

/-- One set flag bit: its entry's effect, and the raw bit (R202, R212). -/
def addFlag (c : Config) (p : FlagPos) (j : Fin 4) (fs : FlagSet) : FlagSet :=
  { addEntry (c.flagTable p j) p j fs with
    rawFlags := fs.rawFlags ||| BitVec.twoPow 24 (rawIndex p j) }

/-- `if n[i][j] = 1 then …` for one bit (R202). -/
def matchBit (c : Config) (p : FlagPos) (n : Nibble) (j : Fin 4) (fs : FlagSet) : FlagSet :=
  if n.getLsbD j.val then addFlag c p j fs else fs

/-- `FLAGS(i)`: the bits 3, 2, 1, 0 in turn (R202). -/
def matchNibble (c : Config) (p : FlagPos) (n : Nibble) (fs : FlagSet) : FlagSet :=
  matchBit c p n 0 (matchBit c p n 1 (matchBit c p n 2 (matchBit c p n 3 fs)))

/-- The FlagSet of a frame, from the empty sets (R200, R202). -/
def frameFlags (c : Config) (F : Frame) : FlagSet :=
  matchNibble c .p14 (F.flagNibbleOf .p14)
    (matchNibble c .p13 (F.flagNibbleOf .p13)
      (matchNibble c .p12 (F.flagNibbleOf .p12)
        (matchNibble c .p11 (F.flagNibbleOf .p11)
          (matchNibble c .p10 (F.flagNibbleOf .p10)
            (matchNibble c .p1 (F.flagNibbleOf .p1) FlagSet.empty)))))

end Sys2Proof.Machine
end

