-- ==== Sys2Proof/Machine/Ops.lean ====
section
/-! DEFINITION. The named operations the meanings are written over: the synchronizer's sub-rules
(spec/10_state.md R31, spec/20_memory.md R54, spec/41_sync_bytes.md R140 to R145), taking an exception
(spec/60_exceptions.md R264, R270), the start of a capture (spec/40_sync_control.md R121), which is also
the only way on after an exception (R272: there is no return operation), and the decode operations on the
workspace (spec/42_decode_digits.md R171, R172; spec/43_decode_flags.md R202). -/

namespace Sys2Proof.Machine

/-- What a meaning answers. -/
abbrev StepResult := Host.Outcome State Fault Refusal

/-- An event accepted without an outcome and without any effect on a register (R126). -/
def ignored (s : State) : State := { s with answer := .accepted none }

/-- An event that is not enabled: no register changes (R66, R126). -/
def notEnabled (s : State) : State := { s with answer := .notEnabled }

/-- Nothing is offered: the block waits (R277); `done` is no longer high (R278). -/
def waits (s : State) : State := { s with answer := .idle }

/-- `RESET` (R290): the state of R35, whatever the state was; the tables are constants and the
environment's offers are its own. -/
def resetBlock (s : State) : State := { State.reset with config := s.config, input := s.input }

/-- `START(m)` in `IDLE` (R121); every decoded field is invalidated with `out_frame` (R297). -/
def startCapture (m : Nat) (s : State) : State :=
  { s with
    maxAtt := some m
    result := .none
    outFrame := none
    outCount := none
    expect := 1
    cur := []
    discards := 0
    phase := .hunt
    answer := .accepted none
    work := DecodeWork.empty }

/-- `end_capture(res)` (R31). -/
def endCapture (res : Result) (s : State) : State :=
  { s with
    result := res
    outCount := some s.discards
    phase := .idle
    expect := 1
    cur := []
    discards := 0 }

/-- The code of an exception (R261). -/
def Exc.code : Exc → Result
  | .syncAttempts => .errSyncAttempts
  | .syncTime => .errSyncTime
  | .transport => .errTransport

/-- The outcome of an exception with its count (R30, R260). -/
def Exc.outcome : Exc → Nat → CaptureOutcome
  | .syncAttempts, n => .syncError .attempts n
  | .syncTime, n => .syncError .time n
  | .transport, n => .transportError n

/-- `raise E(n)`: taking an exception is `end_capture(code(E))` and the outcome `E(n)`, nothing more
(R264, R270). -/
def raiseExc (e : Exc) (s : State) : State :=
  { endCapture e.code s with answer := .accepted (some (e.outcome s.discards)) }

/-- `append(cur, b)`, the only write primitive (R54). -/
def append (b : Byte) (s : State) : State := { s with cur := s.cur ++ [b] }

/-- `ACCEPT(b)` (R142). -/
def accept (b : Byte) (s : State) : State :=
  { append b s with expect := s.expect + 1, answer := .accepted none }

/-- The buffer is dropped and the failed-frame counter incremented (R143). -/
def discard (s : State) : State := { s with cur := [], discards := s.discards + 1 }

/-- `RESTART(b)` (R145). -/
def restart (b : Byte) (s : State) : State :=
  if tagOf b = 1 then { append b s with expect := 2, answer := .accepted none }
  else { s with expect := 1, answer := .accepted none }

/-- `MISMATCH(b)` (R143): the limit test after the increment and before the restart. -/
def mismatch (b : Byte) (s : State) : StepResult :=
  match s.maxAtt with
  | none => .fault (.noValue .maxAtt)
  | some m =>
    if m ≤ (discard s).discards then .next (raiseExc .syncAttempts (discard s))
    else .next (restart b (discard s))

/-- `COMPLETE(b)` (R144): the 14 bytes of `cur` go to `out_frame` in one step (R55). -/
def complete (b : Byte) (s : State) : StepResult :=
  match frameOfList (append b s).cur with
  | none => .fault (.noValue .cur)
  | some F =>
    .next { endCapture .ok s with
      outFrame := some F
      answer := .accepted (some (.frame F s.discards))
      work := DecodeWork.empty }

/-- `BYTE(b)` (R140), with the enabling of R126. -/
def byteEvent (b : Byte) (s : State) : StepResult :=
  match s.phase with
  | .idle => .next (notEnabled s)
  | .hunt =>
    if tagOf b = s.expect then
      if s.expect = 14 then complete b s else .next (accept b s)
    else mismatch b s

/-- A byte whose tag is no position: a mismatch in every state of a capture (R89, R161, R162). -/
def strayByte (b : Byte) (s : State) : StepResult :=
  match s.phase with
  | .idle => .next (notEnabled s)
  | .hunt => mismatch b s

/-- An asynchronous source (R267): enabled in `HUNT`, accepted and ignored in `IDLE` (R126, R268). -/
def asyncEvent (e : Exc) (s : State) : StepResult :=
  match s.phase with
  | .idle => .next (ignored s)
  | .hunt => .next (raiseExc e s)

/-- `SegRead(key)` (R56). -/
def segRead (c : Config) (key : SegKey) : Option DisplayChar := c.segTable key

/-- `FlagRead(i, j)` (R57). -/
def flagRead (c : Config) (p : FlagPos) (j : Fin 4) : FlagEntry := c.flagTable p j

/-- The slot operation on its operand: extraction and look-up (R171, R172). -/
def slotOut (c : Config) (fb : Bool) (key : SegKey) : SlotOut :=
  match segRead c key with
  | some ch => ⟨fb, key, .char ch, true⟩
  | none => ⟨fb, key, .invalid, false⟩

/-- The slot of the workspace an operation writes (R179 to R182). -/
def writeSlot (n : SlotNo) (o : SlotOut) (w : DecodeWork) : DecodeWork :=
  match n with
  | .s1 => { w with slot1 := some o }
  | .s2 => { w with slot2 := some o }
  | .s3 => { w with slot3 := some o }
  | .s4 => { w with slot4 := some o }

/-- A decode operation writes the workspace and no register (R170, R200). -/
def setWork (w : DecodeWork) (s : State) : State := { s with work := w, answer := .accepted none }

/-- `SLOT1` to `SLOT4` (R179 to R182). -/
def slotOp (c : Config) (n : SlotNo) (fb : Bool) (key : SegKey) (s : State) : State :=
  setWork (writeSlot n (slotOut c fb key) s.work) s

/-- `FLAGS(i)` (R202). -/
def flagsOp (c : Config) (p : FlagPos) (b : Nibble) (s : State) : State :=
  setWork { s.work with flags := matchNibble c p b s.work.flags } s

/-- One flag bit that is set (R202, R204). -/
def flagBitOp (c : Config) (p : FlagPos) (j : Fin 4) (s : State) : State :=
  setWork { s.work with flags := addFlag c p j s.work.flags } s

/-- One look-up of the Segment Table (R56, R175). -/
def segKeyOp (c : Config) (key : SegKey) (s : State) : State :=
  setWork { s.work with seg := some (key, segRead c key) } s

end Sys2Proof.Machine
end

