-- ==== Sys2Proof/Machine/Bytes.lean ====
section
/-! DEFINITION. The sixteen byte operations (spec/41_sync_bytes.md R147 to R162): each is the `BYTE` event of R140 for its
tag; the two tags that are no position mismatch in every state (R161, R162). -/

namespace Sys2Proof.Machine

/-- `TAG0 d` (R161). -/
def execTag0 (d : Nibble) (s : State) : StepResult := strayByte (byteOf 0 d) s

/-- `POS1 d` (R147). -/
def execPos1 (d : Nibble) (s : State) : StepResult := byteEvent (byteOf 1 d) s

/-- `POS2 d` (R148). -/
def execPos2 (d : Nibble) (s : State) : StepResult := byteEvent (byteOf 2 d) s

/-- `POS3 d` (R149). -/
def execPos3 (d : Nibble) (s : State) : StepResult := byteEvent (byteOf 3 d) s

/-- `POS4 d` (R150). -/
def execPos4 (d : Nibble) (s : State) : StepResult := byteEvent (byteOf 4 d) s

/-- `POS5 d` (R151). -/
def execPos5 (d : Nibble) (s : State) : StepResult := byteEvent (byteOf 5 d) s

/-- `POS6 d` (R152). -/
def execPos6 (d : Nibble) (s : State) : StepResult := byteEvent (byteOf 6 d) s

/-- `POS7 d` (R153). -/
def execPos7 (d : Nibble) (s : State) : StepResult := byteEvent (byteOf 7 d) s

/-- `POS8 d` (R154). -/
def execPos8 (d : Nibble) (s : State) : StepResult := byteEvent (byteOf 8 d) s

/-- `POS9 d` (R155). -/
def execPos9 (d : Nibble) (s : State) : StepResult := byteEvent (byteOf 9 d) s

/-- `POS10 d` (R156). -/
def execPos10 (d : Nibble) (s : State) : StepResult := byteEvent (byteOf 10 d) s

/-- `POS11 d` (R157). -/
def execPos11 (d : Nibble) (s : State) : StepResult := byteEvent (byteOf 11 d) s

/-- `POS12 d` (R158). -/
def execPos12 (d : Nibble) (s : State) : StepResult := byteEvent (byteOf 12 d) s

/-- `POS13 d` (R159). -/
def execPos13 (d : Nibble) (s : State) : StepResult := byteEvent (byteOf 13 d) s

/-- `POS14 d` (R160). -/
def execPos14 (d : Nibble) (s : State) : StepResult := byteEvent (byteOf 14 d) s

/-- `TAG15 d` (R162). -/
def execTag15 (d : Nibble) (s : State) : StepResult := strayByte (byteOf 15 d) s


end Sys2Proof.Machine
end

