-- ==== Sys2Proof/Machine/Control.lean ====
section
/-! DEFINITION. The control operations: START, TIMEOUT, XFAIL (spec/40_sync_control.md R121 to R123, R126) and RESET
(spec/70_reset_and_hazards.md R290). -/

namespace Sys2Proof.Machine

/-- `START m` (R121): begins a capture in `IDLE`, ignored in `HUNT` (R126). An operand that does not fit
`ATT_W` bits is refused (spec/93_implementation_defined.md U15). -/
def execStart (m : Nat) (s : State) : StepResult :=
  if m < 2 ^ s.config.attW then
    match s.phase with
    | .idle => .next (startCapture m s)
    | .hunt => .next (ignored s)
  else .refused (.operandTooWide m)

/-- `TIMEOUT` (R122, R263). -/
def execTimeout (s : State) : StepResult := asyncEvent .syncTime s

/-- `XFAIL` (R123, R265). -/
def execXfail (s : State) : StepResult := asyncEvent .transport s

/-- `RESET` (R290): enabled in both phases, no outcome. -/
def execReset (s : State) : StepResult := .next (resetBlock s)


end Sys2Proof.Machine
end

