-- ==== Sys2Proof/Machine/FlagBits.lean ====
section
/-! DEFINITION. The twenty-four flag bits (spec/43_decode_flags.md R204, spec/30_encoding.md R98): each is the match of one
set bit (R202). -/

namespace Sys2Proof.Machine

/-- `FLAG_AC` (R204). -/
def execFlagAc (s : State) : StepResult := .next (flagBitOp s.config .p1 3 s)

/-- `FLAG_DC` (R204). -/
def execFlagDc (s : State) : StepResult := .next (flagBitOp s.config .p1 2 s)

/-- `FLAG_AUTO_RANGE` (R204). -/
def execFlagAutoRange (s : State) : StepResult := .next (flagBitOp s.config .p1 1 s)

/-- `FLAG_RS232` (R204). -/
def execFlagRs232 (s : State) : StepResult := .next (flagBitOp s.config .p1 0 s)

/-- `FLAG_MICRO` (R204). -/
def execFlagMicro (s : State) : StepResult := .next (flagBitOp s.config .p10 3 s)

/-- `FLAG_NANO` (R204). -/
def execFlagNano (s : State) : StepResult := .next (flagBitOp s.config .p10 2 s)

/-- `FLAG_KILO` (R204). -/
def execFlagKilo (s : State) : StepResult := .next (flagBitOp s.config .p10 1 s)

/-- `FLAG_DIODE` (R204). -/
def execFlagDiode (s : State) : StepResult := .next (flagBitOp s.config .p10 0 s)

/-- `FLAG_MILLI` (R204). -/
def execFlagMilli (s : State) : StepResult := .next (flagBitOp s.config .p11 3 s)

/-- `FLAG_PERCENT` (R204). -/
def execFlagPercent (s : State) : StepResult := .next (flagBitOp s.config .p11 2 s)

/-- `FLAG_MEGA` (R204). -/
def execFlagMega (s : State) : StepResult := .next (flagBitOp s.config .p11 1 s)

/-- `FLAG_CONTINUITY` (R204). -/
def execFlagContinuity (s : State) : StepResult := .next (flagBitOp s.config .p11 0 s)

/-- `FLAG_FARADS` (R204). -/
def execFlagFarads (s : State) : StepResult := .next (flagBitOp s.config .p12 3 s)

/-- `FLAG_OHMS` (R204). -/
def execFlagOhms (s : State) : StepResult := .next (flagBitOp s.config .p12 2 s)

/-- `FLAG_DELTA` (R204). -/
def execFlagDelta (s : State) : StepResult := .next (flagBitOp s.config .p12 1 s)

/-- `FLAG_HOLD` (R204). -/
def execFlagHold (s : State) : StepResult := .next (flagBitOp s.config .p12 0 s)

/-- `FLAG_AMPS` (R204). -/
def execFlagAmps (s : State) : StepResult := .next (flagBitOp s.config .p13 3 s)

/-- `FLAG_VOLTS` (R204). -/
def execFlagVolts (s : State) : StepResult := .next (flagBitOp s.config .p13 2 s)

/-- `FLAG_HERTZ` (R204). -/
def execFlagHertz (s : State) : StepResult := .next (flagBitOp s.config .p13 1 s)

/-- `FLAG_BATTERY_LOW` (R204). -/
def execFlagBatteryLow (s : State) : StepResult := .next (flagBitOp s.config .p13 0 s)

/-- `FLAG_RSV_14_3` (R204). -/
def execFlagRsv14_3 (s : State) : StepResult := .next (flagBitOp s.config .p14 3 s)

/-- `FLAG_RSV_14_2` (R204). -/
def execFlagRsv14_2 (s : State) : StepResult := .next (flagBitOp s.config .p14 2 s)

/-- `FLAG_RSV_14_1` (R204). -/
def execFlagRsv14_1 (s : State) : StepResult := .next (flagBitOp s.config .p14 1 s)

/-- `FLAG_RSV_14_0` (R204). -/
def execFlagRsv14_0 (s : State) : StepResult := .next (flagBitOp s.config .p14 0 s)


end Sys2Proof.Machine
end

