-- ==== Sys2Proof/Machine/FlagBytes.lean ====
section
/-! DEFINITION. The six flag-byte operations (spec/43_decode_flags.md R205 to R210), on the data nibble they read. -/

namespace Sys2Proof.Machine

/-- `FLAGS1` (R205). -/
def execFlags1 (b : Nibble) (s : State) : StepResult := .next (flagsOp s.config .p1 b s)

/-- `FLAGS10` (R206). -/
def execFlags10 (b : Nibble) (s : State) : StepResult := .next (flagsOp s.config .p10 b s)

/-- `FLAGS11` (R207). -/
def execFlags11 (b : Nibble) (s : State) : StepResult := .next (flagsOp s.config .p11 b s)

/-- `FLAGS12` (R208). -/
def execFlags12 (b : Nibble) (s : State) : StepResult := .next (flagsOp s.config .p12 b s)

/-- `FLAGS13` (R209). -/
def execFlags13 (b : Nibble) (s : State) : StepResult := .next (flagsOp s.config .p13 b s)

/-- `FLAGS14` (R210). -/
def execFlags14 (b : Nibble) (s : State) : StepResult := .next (flagsOp s.config .p14 b s)


end Sys2Proof.Machine
end

