-- ==== Sys2Proof/Machine/SegKeys.lean ====
section
/-! DEFINITION. The twelve segment keys (spec/42_decode_digits.md R175, spec/30_encoding.md R98): each is one read of the
Segment Table (spec/20_memory.md R56). -/

namespace Sys2Proof.Machine

/-- `SEG_0` (R175). -/
def execSeg0 (s : State) : StepResult := .next (segKeyOp s.config 0x7D s)

/-- `SEG_1` (R175). -/
def execSeg1 (s : State) : StepResult := .next (segKeyOp s.config 0x05 s)

/-- `SEG_2` (R175). -/
def execSeg2 (s : State) : StepResult := .next (segKeyOp s.config 0x5B s)

/-- `SEG_3` (R175). -/
def execSeg3 (s : State) : StepResult := .next (segKeyOp s.config 0x1F s)

/-- `SEG_4` (R175). -/
def execSeg4 (s : State) : StepResult := .next (segKeyOp s.config 0x27 s)

/-- `SEG_5` (R175). -/
def execSeg5 (s : State) : StepResult := .next (segKeyOp s.config 0x3E s)

/-- `SEG_6` (R175). -/
def execSeg6 (s : State) : StepResult := .next (segKeyOp s.config 0x7E s)

/-- `SEG_7` (R175). -/
def execSeg7 (s : State) : StepResult := .next (segKeyOp s.config 0x15 s)

/-- `SEG_8` (R175). -/
def execSeg8 (s : State) : StepResult := .next (segKeyOp s.config 0x7F s)

/-- `SEG_9` (R175). -/
def execSeg9 (s : State) : StepResult := .next (segKeyOp s.config 0x3F s)

/-- `SEG_BLANK` (R175). -/
def execSegBlank (s : State) : StepResult := .next (segKeyOp s.config 0x00 s)

/-- `SEG_L` (R175). -/
def execSegL (s : State) : StepResult := .next (segKeyOp s.config 0x68 s)


end Sys2Proof.Machine
end

