-- ==== Sys2Proof/Machine/Slots.lean ====
section
/-! DEFINITION. The four slot operations (spec/42_decode_digits.md R179 to R182), on the slot word they read. -/

namespace Sys2Proof.Machine

/-- `SLOT1` (R179). -/
def execSlot1 (fb : Bool) (key : SegKey) (s : State) : StepResult :=
  .next (slotOp s.config .s1 fb key s)

/-- `SLOT2` (R180). -/
def execSlot2 (fb : Bool) (key : SegKey) (s : State) : StepResult :=
  .next (slotOp s.config .s2 fb key s)

/-- `SLOT3` (R181). -/
def execSlot3 (fb : Bool) (key : SegKey) (s : State) : StepResult :=
  .next (slotOp s.config .s3 fb key s)

/-- `SLOT4` (R182). -/
def execSlot4 (fb : Bool) (key : SegKey) (s : State) : StepResult :=
  .next (slotOp s.config .s4 fb key s)


end Sys2Proof.Machine
end

