-- ==== Sys2Proof/Machine/Dispatch.lean ====
section
/-! DEFINITION. Dispatch: one arm per constructor (spec/40_sync_control.md R120). -/

namespace Sys2Proof.Machine

def exec (i : Instr) (s : State) : Host.Outcome State Fault Refusal :=
  match i with
  | .tag0 d => Sys2Proof.Machine.execTag0 d s
  | .pos1 d => Sys2Proof.Machine.execPos1 d s
  | .pos2 d => Sys2Proof.Machine.execPos2 d s
  | .pos3 d => Sys2Proof.Machine.execPos3 d s
  | .pos4 d => Sys2Proof.Machine.execPos4 d s
  | .pos5 d => Sys2Proof.Machine.execPos5 d s
  | .pos6 d => Sys2Proof.Machine.execPos6 d s
  | .pos7 d => Sys2Proof.Machine.execPos7 d s
  | .pos8 d => Sys2Proof.Machine.execPos8 d s
  | .pos9 d => Sys2Proof.Machine.execPos9 d s
  | .pos10 d => Sys2Proof.Machine.execPos10 d s
  | .pos11 d => Sys2Proof.Machine.execPos11 d s
  | .pos12 d => Sys2Proof.Machine.execPos12 d s
  | .pos13 d => Sys2Proof.Machine.execPos13 d s
  | .pos14 d => Sys2Proof.Machine.execPos14 d s
  | .tag15 d => Sys2Proof.Machine.execTag15 d s
  | .start m => Sys2Proof.Machine.execStart m s
  | .timeout => Sys2Proof.Machine.execTimeout s
  | .xfail => Sys2Proof.Machine.execXfail s
  | .reset => Sys2Proof.Machine.execReset s
  | .slot1 fb key => Sys2Proof.Machine.execSlot1 fb key s
  | .slot2 fb key => Sys2Proof.Machine.execSlot2 fb key s
  | .slot3 fb key => Sys2Proof.Machine.execSlot3 fb key s
  | .slot4 fb key => Sys2Proof.Machine.execSlot4 fb key s
  | .flags1 b => Sys2Proof.Machine.execFlags1 b s
  | .flags10 b => Sys2Proof.Machine.execFlags10 b s
  | .flags11 b => Sys2Proof.Machine.execFlags11 b s
  | .flags12 b => Sys2Proof.Machine.execFlags12 b s
  | .flags13 b => Sys2Proof.Machine.execFlags13 b s
  | .flags14 b => Sys2Proof.Machine.execFlags14 b s
  | .seg0 => Sys2Proof.Machine.execSeg0 s
  | .seg1 => Sys2Proof.Machine.execSeg1 s
  | .seg2 => Sys2Proof.Machine.execSeg2 s
  | .seg3 => Sys2Proof.Machine.execSeg3 s
  | .seg4 => Sys2Proof.Machine.execSeg4 s
  | .seg5 => Sys2Proof.Machine.execSeg5 s
  | .seg6 => Sys2Proof.Machine.execSeg6 s
  | .seg7 => Sys2Proof.Machine.execSeg7 s
  | .seg8 => Sys2Proof.Machine.execSeg8 s
  | .seg9 => Sys2Proof.Machine.execSeg9 s
  | .segBlank => Sys2Proof.Machine.execSegBlank s
  | .segL => Sys2Proof.Machine.execSegL s
  | .flagAc => Sys2Proof.Machine.execFlagAc s
  | .flagDc => Sys2Proof.Machine.execFlagDc s
  | .flagAutoRange => Sys2Proof.Machine.execFlagAutoRange s
  | .flagRs232 => Sys2Proof.Machine.execFlagRs232 s
  | .flagMicro => Sys2Proof.Machine.execFlagMicro s
  | .flagNano => Sys2Proof.Machine.execFlagNano s
  | .flagKilo => Sys2Proof.Machine.execFlagKilo s
  | .flagDiode => Sys2Proof.Machine.execFlagDiode s
  | .flagMilli => Sys2Proof.Machine.execFlagMilli s
  | .flagPercent => Sys2Proof.Machine.execFlagPercent s
  | .flagMega => Sys2Proof.Machine.execFlagMega s
  | .flagContinuity => Sys2Proof.Machine.execFlagContinuity s
  | .flagFarads => Sys2Proof.Machine.execFlagFarads s
  | .flagOhms => Sys2Proof.Machine.execFlagOhms s
  | .flagDelta => Sys2Proof.Machine.execFlagDelta s
  | .flagHold => Sys2Proof.Machine.execFlagHold s
  | .flagAmps => Sys2Proof.Machine.execFlagAmps s
  | .flagVolts => Sys2Proof.Machine.execFlagVolts s
  | .flagHertz => Sys2Proof.Machine.execFlagHertz s
  | .flagBatteryLow => Sys2Proof.Machine.execFlagBatteryLow s
  | .flagRsv14_3 => Sys2Proof.Machine.execFlagRsv14_3 s
  | .flagRsv14_2 => Sys2Proof.Machine.execFlagRsv14_2 s
  | .flagRsv14_1 => Sys2Proof.Machine.execFlagRsv14_1 s
  | .flagRsv14_0 => Sys2Proof.Machine.execFlagRsv14_0 s

end Sys2Proof.Machine
end

