-- ==== Sys2Proof/Machine/Fetch.lean ====
section
/-! DEFINITION. Where the next word comes from: the head of the environment's offers, which are a sequence
(spec/20_memory.md R60; spec/60_exceptions.md R269: a model at the event level is handed a sequence). -/

namespace Sys2Proof.Machine

/-- The word offered next, and the state once the offer has been answered. -/
def fetch (s : State) : Option (PortWord × State) :=
  match s.input with
  | [] => none
  | w :: rest => some (w, { s with input := rest })

/-- What the machine does with a word that is no row of the opcode table: a low pin is no event (R6); a
key that is none of the 12 rows is looked up like any other (R56, R90); a nibble without a set flag bit or
with several adds what its set bits stand for (R202). -/
def runUnlisted (e : DecodeError) (s : State) : StepResult :=
  match e with
  | .pinLow => .next (waits s)
  | .unmappedKey k => .next (segKeyOp s.config k s)
  | .notOneFlagBit p w => .next (flagsOp s.config p w s)

/-- Runs one offered word. -/
def runWord (w : PortWord) (s : State) : StepResult :=
  match decode w with
  | .ok i => exec i s
  | .error e => runUnlisted e s

/-- `s` with a word offered before all others. -/
def offerFirst (w : PortWord) (s : State) : State := { s with input := w :: s.input }

end Sys2Proof.Machine
end

