-- ==== Sys2Proof/Machine/Step.lean ====
section
/-! DEFINITION. One step (spec/40_sync_control.md R120): the next offered word is decoded and run; with nothing
offered no register changes (spec/00_scope.md R6). -/

namespace Sys2Proof.Machine

/-- One step of the machine. -/
def step (s : State) : Host.Outcome State Fault Refusal :=
  match fetch s with
  | none => .next (waits s)
  | some (w, s') => runWord w s'

/-- `s` with the instruction of a table word offered first, so that the next step runs it; unchanged where
the word is no table word. -/
def State.withFetchWord (s : State) (nbits w : Nat) : State :=
  match tableWord nbits w with
  | none => s
  | some pw => offerFirst pw s

end Sys2Proof.Machine
end

