-- ==== Sys2Proof/Machine/Reading.lean ====
section
/-! DEFINITION. The Frame Decoder's output and the Value Assembler (spec/42_decode_digits.md R170, R177, R178, R183;
spec/43_decode_flags.md R212; spec/44_assemble_sanity.md R230 to R244): pure functions of a frame and a
discard count, not registers (spec/10_state.md R33), for any configuration. -/

namespace Sys2Proof.Machine

/-- The digit part of the decoded fields (R183): each slot's `ch`, `valid` and `key`, the sign, the three
decimal-point bits and `dp`. -/
structure Digits where
  slot1 : SlotOut
  slot2 : SlotOut
  slot3 : SlotOut
  slot4 : SlotOut
  sign : Bool
  dpbit2 : Bool
  dpbit3 : Bool
  dpbit4 : Bool
  dp : Option Nat
  deriving DecidableEq, Repr

/-- The decoded fields: the raw bytes passed through (R244), the digits (R183) and the FlagSet (R212). -/
structure Fields where
  rawBytes : Frame
  digits : Digits
  flags : FlagSet
  deriving DecidableEq, Repr

/-- `dp_count = dpbit[2] + dpbit[3] + dpbit[4]` (R178). -/
def dpCount (b2 b3 b4 : Bool) : Nat := b2.toNat + b3.toNat + b4.toNat

/-- `dp`: how many digits stand before the point, when exactly one point is set (R178). -/
def dpOf : Bool → Bool → Bool → Option Nat
  | true, false, false => some 1
  | false, true, false => some 2
  | false, false, true => some 3
  | _, _, _ => none

/-- The digit outputs from the four slots (R177, R178, R183). -/
def digitsOf (o1 o2 o3 o4 : SlotOut) : Digits where
  slot1 := o1
  slot2 := o2
  slot3 := o3
  slot4 := o4
  sign := o1.fb
  dpbit2 := o2.fb
  dpbit3 := o3.fb
  dpbit4 := o4.fb
  dp := dpOf o2.fb o3.fb o4.fb

/-- One slot of a frame (R171, R172). -/
def frameSlot (c : Config) (F : Frame) (s : SlotNo) : SlotOut := slotOut c (F.slotFb s) (F.slotKeyOf s)

/-- `decode(F)` (R170). -/
def decodeFrame (c : Config) (F : Frame) : Fields where
  rawBytes := F
  digits := digitsOf (frameSlot c F .s1) (frameSlot c F .s2) (frameSlot c F .s3) (frameSlot c F .s4)
  flags := frameFlags c F

/-- The digits that the slot operations have written to a workspace, once all four have. -/
def workDigits (w : DecodeWork) : Option Digits :=
  match w.slot1, w.slot2, w.slot3, w.slot4 with
  | some o1, some o2, some o3, some o4 => some (digitsOf o1 o2 o3 o4)
  | _, _, _, _ => none

/-- `dp_count` of the decoded digits. -/
def Digits.dpCount (d : Digits) : Nat := Machine.dpCount d.dpbit2 d.dpbit3 d.dpbit4

/-- More than one decimal point (R231). -/
def multiDp (f : Fields) : Bool := decide (2 ≤ f.digits.dpCount)

/-- More than one scale flag (R231). -/
def multiScale (f : Fields) : Bool := decide (2 ≤ f.flags.scaleSet.length)

/-- More than one primary unit flag (R231). -/
def multiUnit (f : Fields) : Bool := decide (2 ≤ f.flags.unitSet.length)

/-- A slot whose look-up failed (R231). -/
def badSeg (f : Fields) : Bool :=
  !(f.digits.slot1.valid && f.digits.slot2.valid && f.digits.slot3.valid && f.digits.slot4.valid)

/-- `reason`: bit 0 `multi_dp`, bit 1 `multi_scale`, bit 2 `multi_unit`, bit 3 `bad_seg` (R232). -/
def reasonOf (f : Fields) : BitVec 4 :=
  BitVec.ofBool (badSeg f) ++ BitVec.ofBool (multiUnit f)
    ++ BitVec.ofBool (multiScale f) ++ BitVec.ofBool (multiDp f)

/-- `sane` (R231). -/
def saneOf (f : Fields) : Bool := !(multiDp f || multiScale f || multiUnit f || badSeg f)

/-- How a character prints (R93). -/
def glyph : SlotChar → Char
  | .char (.digit d) => Char.ofNat (48 + d.val)
  | .char .blank => ' '
  | .char .el => 'L'
  | .invalid => '?'

/-- A character, or nothing, before the next one. -/
def onlyIf (b : Bool) (c : Char) : List Char := if b then [c] else []

/-- `rawVal`, as its characters in order (R234). -/
def rawValOf (d : Digits) : List Char :=
  onlyIf d.sign '-' ++ [glyph d.slot1.ch]
    ++ onlyIf d.dpbit2 '.' ++ [glyph d.slot2.ch]
    ++ onlyIf d.dpbit3 '.' ++ [glyph d.slot3.ch]
    ++ onlyIf d.dpbit4 '.' ++ [glyph d.slot4.ch]

/-- The digit value of a character, where it is a digit (R235, R236). -/
def digitValue : SlotChar → Option Nat
  | .char (.digit d) => some d.val
  | .char .blank => none
  | .char .el => none
  | .invalid => none

/-- The mantissa, where every character is a digit (R235 condition 1, R236). -/
def mantissaOf (d : Digits) : Option Nat :=
  match digitValue d.slot1.ch, digitValue d.slot2.ch, digitValue d.slot3.ch, digitValue d.slot4.ch with
  | some d1, some d2, some d3, some d4 => some (1000 * d1 + 100 * d2 + 10 * d3 + d4)
  | _, _, _, _ => none

/-- The power of ten of one scale flag (R237; micro and kilo PRESUMED, spec/93 G6, assumption log 8). -/
def scaleExp : ScaleId → Int
  | .nano => -9
  | .micro => -6
  | .milli => -3
  | .kilo => 3
  | .mega => 6

/-- `scale_exp` of the scale set: 0 for none, undefined for two or more (R237). -/
def scaleExpOf : List ScaleId → Option Int
  | [] => some 0
  | [p] => some (scaleExp p)
  | _ :: _ :: _ => none

/-- `frac`, the digits after the point (R238). -/
def fracOf : Option Nat → Int
  | some p => 4 - (p : Int)
  | none => 0

/-- `numeric`: sign, mantissa and power of ten (R238, R244). -/
structure Numeric where
  sign : Bool
  mantissa : Nat
  exp10 : Int
  deriving DecidableEq, Repr

/-- The exact rational `(-1)^sign * mantissa * 10^exp10` (R238). -/
def Numeric.value (n : Numeric) : ℚ := (if n.sign then -1 else 1) * n.mantissa * (10 : ℚ) ^ n.exp10

/-- `NUMERIC` (R235 to R238): absent unless every character is a digit, at most one point and at most one
scale flag are set. -/
def numericOf (f : Fields) : Option Numeric :=
  match mantissaOf f.digits, scaleExpOf f.flags.scaleSet with
  | some m, some e => if multiDp f then none else some ⟨f.digits.sign, m, e - fracOf f.digits.dp⟩
  | _, _ => none

/-- The one member of a set, or `none` for none and for several (R239, R240). -/
def onlyMember {α : Type} : List α → Option α
  | [x] => some x
  | _ => none

/-- `acdc` (R241). -/
inductive AcDc
  | absent
  | ac
  | dc
  | both
  deriving DecidableEq, Repr

/-- `acdc` from the submode set (R241). -/
def acdcOf (s : List SubmodeId) : AcDc :=
  match s.contains .ac, s.contains .dc with
  | false, false => .absent
  | true, false => .ac
  | false, true => .dc
  | true, true => .both

/-- The Reading (R244); `text` is not produced (spec/00_scope.md R4). -/
structure Reading where
  fields : Fields
  sane : Bool
  reason : BitVec 4
  rawVal : List Char
  numeric : Option Numeric
  measurement : Option UnitId
  scale : Option ScaleId
  acdc : AcDc
  delta : Bool
  readErrors : Nat
  deriving DecidableEq, Repr

/-- `assemble(fields, readErrors)` (R230 to R244). -/
def assemble (f : Fields) (n : Nat) : Reading where
  fields := f
  sane := saneOf f
  reason := reasonOf f
  rawVal := rawValOf f.digits
  numeric := numericOf f
  measurement := onlyMember f.flags.unitSet
  scale := onlyMember f.flags.scaleSet
  acdc := acdcOf f.flags.submodeSet
  delta := f.flags.modeSet.contains .delta
  readErrors := n

/-- The Reading of a frame and its discard count under a configuration. -/
def readingOf (c : Config) (F : Frame) (n : Nat) : Reading := assemble (decodeFrame c F) n

end Sys2Proof.Machine
end

