-- ==== Sys2Proof/Machine/Notation.lean ====
section
/-! DEFINITION. The pseudo-operations of spec/30_encoding.md R97: `FRAME`, `DISPLAY` and `TAIL`, the inverse of the
frame decoder under a configuration's tables, and the offered words of a run of bytes (R88, R96). -/

namespace Sys2Proof.Machine

/-- `FRAME(d1 … d14)`: the frame with these data nibbles (R97). -/
def frameOf (d1 d2 d3 d4 d5 d6 d7 d8 d9 d10 d11 d12 d13 d14 : Nibble) : Frame :=
  ⟨byteOf 1 d1, byteOf 2 d2, byteOf 3 d3, byteOf 4 d4, byteOf 5 d5, byteOf 6 d6, byteOf 7 d7,
    byteOf 8 d8, byteOf 9 d9, byteOf 10 d10, byteOf 11 d11, byteOf 12 d12, byteOf 13 d13, byteOf 14 d14⟩

/-- `key(c)`: the key of a character, where the table has one (R97, R174 item 3). -/
def keyFor (c : Config) (ch : DisplayChar) : Option SegKey :=
  (c.segRows.find? fun r => r.2 == ch).map (·.1)

/-- The first nibble of a slot, `(fb << 3) | (key >> 4)` (R97). -/
def firstNibble (fb : Bool) (key : SegKey) : Nibble := (slotWordOf fb key).extractLsb' 4 4

/-- The second nibble of a slot, `key & 15` (R97). -/
def secondNibble (key : SegKey) : Nibble := key.extractLsb' 0 4

/-- The data nibble of a flag position with exactly the named flags set (R97); a reserved flag `RSV_i_j` is
named by its position (R201). -/
def flagNibbleFor (c : Config) (flags : List FlagId) (p : FlagPos) : Nibble :=
  let named (j : Fin 4) : BitVec 1 := BitVec.ofBool (flags.contains (identityAt (c.flagTable p j) p j))
  named 3 ++ named 2 ++ named 1 ++ named 0

/-- `DISPLAY(sign, c1 c2 c3 c4, dps, flags)` (R97), `dps` as the three bits of slots 2, 3, 4. -/
def displayFrame (c : Config) (sign : Bool) (c1 c2 c3 c4 : DisplayChar) (dp2 dp3 dp4 : Bool)
    (flags : List FlagId) : Option Frame :=
  match keyFor c c1, keyFor c c2, keyFor c c3, keyFor c c4 with
  | some k1, some k2, some k3, some k4 =>
    some (frameOf (flagNibbleFor c flags .p1)
      (firstNibble sign k1) (secondNibble k1) (firstNibble dp2 k2) (secondNibble k2)
      (firstNibble dp3 k3) (secondNibble k3) (firstNibble dp4 k4) (secondNibble k4)
      (flagNibbleFor c flags .p10) (flagNibbleFor c flags .p11) (flagNibbleFor c flags .p12)
      (flagNibbleFor c flags .p13) (flagNibbleFor c flags .p14))
  | _, _, _, _ => none

/-- `TAIL(F, k)`: the last `k` bytes of a frame (R97). -/
def frameTail (F : Frame) (k : Nat) : List Byte := F.toList.drop (14 - k)

/-- The input word of a received byte (R88). -/
def byteWord (b : Byte) : PortWord := .iw (inputWordOf 0 b)

/-- The input words of a run of bytes, in order (R96). -/
def byteWords (l : List Byte) : List PortWord := l.map byteWord

/-- The ten decode operations of a frame, each with the frame content it reads (R98, R170). -/
def decodeOps (F : Frame) : List PortWord :=
  [.slot .s1 (F.slotWord .s1), .slot .s2 (F.slotWord .s2), .slot .s3 (F.slotWord .s3),
    .slot .s4 (F.slotWord .s4), .flagNibble .p1 (F.flagNibbleOf .p1), .flagNibble .p10 (F.flagNibbleOf .p10),
    .flagNibble .p11 (F.flagNibbleOf .p11), .flagNibble .p12 (F.flagNibbleOf .p12),
    .flagNibble .p13 (F.flagNibbleOf .p13), .flagNibble .p14 (F.flagNibbleOf .p14)]

end Sys2Proof.Machine
end

