-- ==== Sys2Proof/Machine/Port.lean ====
section
/-! DEFINITION. What the outside sees and does: the ports (spec/10_state.md R34, R36, R38), the host's reads
(R37), the hardware forms of the outputs (spec/30_encoding.md R93; R212, R241, R245), the arbiter in front
of the block (spec/60_exceptions.md R269) and the host's three calls (spec/40_sync_control.md R125). -/

namespace Sys2Proof.Machine

/-- `busy`: `phase = HUNT` (R34). -/
def busy (s : State) : Bool := decide (s.phase = .hunt)

/-- `done`: high for the one cycle after a capture end (R34, R278). -/
def done (s : State) : Bool :=
  match s.answer with
  | .accepted (some _) => true
  | .accepted none => false
  | .notEnabled => false
  | .idle => false

/-- `in_ready`: 0 exactly when `phase = IDLE` and `in_word[9:8] = 00` (R126). -/
def inReady (s : State) (w : InputWord) : Bool := !(decide (s.phase = .idle) && decide (kindOf w = 0))

/-- The 3-bit code of `result` (R26). -/
def resultCode : Result → BitVec 3
  | .none => 0
  | .ok => 1
  | .errSyncAttempts => 2
  | .errSyncTime => 3
  | .errTransport => 4

/-- The 112 bits of the `out_frame` port, `out_frame[1]` most significant (R34). -/
def frameBits (F : Frame) : BitVec 112 :=
  F.f1 ++ F.f2 ++ F.f3 ++ F.f4 ++ F.f5 ++ F.f6 ++ F.f7 ++ F.f8 ++ F.f9 ++ F.f10 ++ F.f11 ++ F.f12
    ++ F.f13 ++ F.f14

/-- The host reads `out_frame`: a host error while `result` is not `OK` (R37). -/
def readOutFrame (s : State) : Except Fault Frame :=
  match s.result, s.outFrame with
  | .ok, some F => .ok F
  | _, _ => .error (.noValue .outFrame)

/-- The host reads `out_count`: a host error while `result = NONE` (R37). -/
def readOutCount (s : State) : Except Fault Nat :=
  match s.result, s.outCount with
  | .none, _ => .error (.noValue .outCount)
  | _, some n => .ok n
  | _, none => .error (.noValue .outCount)

/-- The host reads the decoded fields and the Reading, combinational from `out_frame` and `out_count`
(R33): a host error while `result` is not `OK` (R37). -/
def readReading (s : State) : Except Fault Reading :=
  match s.result, s.outFrame, s.outCount with
  | .ok, some F, some n => .ok (readingOf s.config F n)
  | _, _, _ => .error (.noValue .decoded)

/-- The 4-bit code of a character (R93). -/
def charCode : SlotChar → BitVec 4
  | .char (.digit d) => BitVec.ofNat 4 d.val
  | .char .blank => 10
  | .char .el => 11
  | .invalid => 15

/-- A set as one bit per identity: bit `i` for the `i`-th of a list of identities (R212). -/
def memberBits {α : Type} [DecidableEq α] (set : List α) : (ids : List α) → BitVec ids.length
  | [] => 0#0
  | x :: xs => BitVec.concat (memberBits set xs) (set.contains x)

/-- The identities of one kind that a table holds, in the order of their numbers (R201, R212; under a table
other than the reference one the order is the model's choice, assumption log 27). -/
def tableIds {α : Type} (code : α → Nat) (pick : FlagPos × Fin 4 → Option α) : List α :=
  (allFlagAddrs.filterMap pick).foldr (setInsert code) []

/-- A unit entry's identity. -/
def pickUnit : FlagEntry → Option UnitId
  | .unit u => some u
  | .scale _ | .submode _ | .mode _ | .reserved => none

/-- A mode entry's identity. -/
def pickMode : FlagEntry → Option ModeId
  | .mode m => some m
  | .scale _ | .unit _ | .submode _ | .reserved => none

/-- The table's `Unit` identities (R201). -/
def unitIds (c : Config) : List UnitId := tableIds unitCode fun a => pickUnit (c.flagTable a.1 a.2)

/-- The table's `Mode` identities (R201). -/
def modeIds (c : Config) : List ModeId := tableIds modeCode fun a => pickMode (c.flagTable a.1 a.2)

/-- The table's reserved positions (R201, R203 item 3), in the order of `reservedCode` (assumption log 27). -/
def reservedIds (c : Config) : List (FlagPos × Fin 4) :=
  tableIds reservedCode fun a => if c.flagTable a.1 a.2 = .reserved then some a else none

/-- The hardware form of `scaleSet` (R212). -/
def scaleBits (fs : FlagSet) : BitVec 5 := memberBits fs.scaleSet [.nano, .micro, .milli, .kilo, .mega]

/-- The hardware form of `unitSet`: one bit per `Unit` identity of the table (R212). -/
def unitBits (c : Config) (fs : FlagSet) : BitVec (unitIds c).length := memberBits fs.unitSet (unitIds c)

/-- The hardware form of `submodeSet` (R212). -/
def submodeBits (fs : FlagSet) : BitVec 4 := memberBits fs.submodeSet [.ac, .dc, .diode, .continuity]

/-- The hardware form of `modeSet`: one bit per `Mode` identity of the table (R212). -/
def modeBits (c : Config) (fs : FlagSet) : BitVec (modeIds c).length := memberBits fs.modeSet (modeIds c)

/-- The hardware form of `reservedFlags`: one bit per reserved position of the table (R212). -/
def reservedBits (c : Config) (fs : FlagSet) : BitVec (reservedIds c).length :=
  memberBits fs.reservedFlags (reservedIds c)

/-- The hardware form of `acdc`: bit 0 `AC`, bit 1 `DC` (R241). -/
def acdcBits : AcDc → BitVec 2
  | .absent => 0
  | .ac => 1
  | .dc => 2
  | .both => 3

/-- The hardware form of `numeric`: sign, 14-bit mantissa, 5-bit two's complement exponent (R245). -/
def numericBits (n : Numeric) : Bool × BitVec 14 × BitVec 5 :=
  (n.sign, BitVec.ofNat 14 n.mantissa, BitVec.ofInt 5 n.exp10)

/-- The place of an offered word in the arbiter's order, highest first (R269); the decode operations, which
no agent of the block offers, come last (assumption log 20). -/
def offerRank : PortWord → Nat
  | .pin _ => 0
  | .iw w =>
    match (kindOf w).toNat with
    | 3 => 1
    | 2 => 2
    | 1 => 3
    | _ => 4
  | .startEvent _ => 3
  | .slot _ _ => 5
  | .flagNibble _ _ => 5
  | .segKey _ => 5
  | .flagBit _ _ => 5

/-- The words of one rank, in the order offered. -/
def ofRank (r : Nat) (ws : List PortWord) : List PortWord := ws.filter fun w => offerRank w == r

/-- The arbiter: events offered at the same instant are put in the order of R269. -/
def arbitrate (ws : List PortWord) : List PortWord :=
  ofRank 0 ws ++ ofRank 1 ws ++ ofRank 2 ws ++ ofRank 3 ws ++ ofRank 4 ws ++ ofRank 5 ws

/-- The environment offers several words at the same instant, after all it has offered before. -/
def offerTogether (ws : List PortWord) (s : State) : State := { s with input := s.input ++ arbitrate ws }

/-- What an open session remembers (R125): `retries`, the `m` of every later `START`, and `timeout`, the
watchdog's budget in the caller's own unit, which the block never reads (R275). -/
structure Session where
  retries : Nat
  timeout : Nat
  deriving DecidableEq, Repr

/-- The events of `open(byteSource, retries, timeout)`: `RESET`, then one capture (R125, R294). -/
def openEvents (retries : Nat) : List PortWord := [encode .reset, encode (.start retries)]

/-- What `open` returns once its capture has its outcome: the session, the frame's content dropped, or the
error (R125). -/
def openResult (retries timeout : Nat) (o : CaptureOutcome) : Except CaptureOutcome Session :=
  match o with
  | .frame _ _ => .ok ⟨retries, timeout⟩
  | .syncError c n => .error (.syncError c n)
  | .transportError n => .error (.transportError n)

/-- The events of `read(session)`: one capture with the session's limit (R125). -/
def readEvents (ses : Session) : List PortWord := [encode (.start ses.retries)]

/-- What `read` returns once its capture has its outcome: the Reading, or the error (R125). -/
def readResult (c : Config) (o : CaptureOutcome) : Except CaptureOutcome Reading :=
  match o with
  | .frame F n => .ok (readingOf c F n)
  | .syncError e n => .error (.syncError e n)
  | .transportError n => .error (.transportError n)

/-- The events of `close(session)`: none (R125). -/
def closeEvents (_ : Session) : List PortWord := []

end Sys2Proof.Machine
end

