-- ==== Sys2Proof/Safety.lean ====
section
/-! DEFINITION. The invariants of spec/10_state.md R29 that hold between any two steps from reset onward, with the
bounds of R24 and spec/60_exceptions.md R261 and the width of R7, and the words claims are stated in. -/

namespace Sys2Proof.Machine

/-- `max(m, 1)`, the number of discards that ends a capture (R24, R143). -/
def limitOf (m : Nat) : Nat := max m 1

/-- I1 (R29): `1 <= expect <= 14`. -/
abbrev I1 (s : State) : Prop := 1 ≤ s.expect.toNat ∧ s.expect.toNat ≤ 14

/-- I2 (R29): `length(cur) = expect - 1` and the tags of `cur` are 1, 2, … -/
abbrev I2 (s : State) : Prop := s.cur.length + 1 = s.expect.toNat ∧ tagsInOrder s.cur

/-- I3 (R29). -/
abbrev I3 (s : State) : Prop := s.phase = .idle → s.expect = 1 ∧ s.cur = [] ∧ s.discards = 0

/-- I4 (R29). -/
abbrev I4 (s : State) : Prop :=
  s.phase = .hunt →
    s.result = .none ∧ s.outFrame = none ∧ s.outCount = none ∧ s.maxAtt.isSome = true ∧
      ∀ m ∈ s.maxAtt, s.discards < limitOf m

/-- I5 (R29): `result = OK` if and only if `out_frame` has a value, which is then correctly tagged. -/
abbrev I5 (s : State) : Prop :=
  (s.result = .ok ↔ s.outFrame.isSome = true) ∧ ∀ F ∈ s.outFrame, F.tagged

/-- I6 (R29), with the count of every outcome: `out_count` has a value exactly when a capture has ended
(R26, R28), and then `max(m, 1)` for the attempt limit and less for the other outcomes (R24, R261). -/
abbrev I6 (s : State) : Prop :=
  (s.result ≠ .none ↔ s.outCount.isSome = true) ∧ (s.outCount.isSome = true → s.maxAtt.isSome = true) ∧
    ∀ m ∈ s.maxAtt, ∀ n ∈ s.outCount,
      (s.result = .errSyncAttempts → n = limitOf m) ∧ (s.result ≠ .errSyncAttempts → n < limitOf m)

/-- I7 (R29), in the form a state can show: `result = NONE` in `IDLE` only while no `START` has been taken
since the last `RESET`, that is, while `max_att` has no value (R25). -/
abbrev I7 (s : State) : Prop := s.phase = .idle → (s.result = .none ↔ s.maxAtt = none)

/-- `max_att` fits its `ATT_W` bits (R7, R20). -/
abbrev FitsWidth (s : State) : Prop := ∀ m ∈ s.maxAtt, m < 2 ^ s.config.attW

/-- The invariants together. -/
structure Invariants (s : State) : Prop where
  i1 : I1 s
  i2 : I2 s
  i3 : I3 s
  i4 : I4 s
  i5 : I5 s
  i6 : I6 s
  i7 : I7 s
  width : FitsWidth s

/-- A list is strictly rising by a numbering of its members: the one form a set has (State.lean). -/
abbrev rising {α : Type} (code : α → Nat) (l : List α) : Prop := (l.map code).Pairwise (· < ·)

/-- Every set of a FlagSet is in its one form. -/
structure FlagSet.Canonical (fs : FlagSet) : Prop where
  scale : rising scaleCode fs.scaleSet
  unit : rising unitCode fs.unitSet
  submode : rising submodeCode fs.submodeSet
  mode : rising modeCode fs.modeSet
  reserved : rising reservedCode fs.reservedFlags

/-- The eight registers of R20. -/
structure Registers where
  phase : Phase
  expect : Nibble
  cur : List Byte
  discards : Nat
  maxAtt : Option Nat
  result : Result
  outFrame : Option Frame
  outCount : Option Nat
  deriving DecidableEq, Repr

/-- The registers of a state. -/
def State.registers (s : State) : Registers :=
  ⟨s.phase, s.expect, s.cur, s.discards, s.maxAtt, s.result, s.outFrame, s.outCount⟩

/-- The registers after `end_capture` by an exception with `n` discards, and the step's outcome (R31, R264). -/
def endedBy (r : Result) (o : Nat → CaptureOutcome) (n : Nat) (s : State) : State :=
  { s with
    result := r
    outCount := some n
    phase := .idle
    expect := 1
    cur := []
    discards := 0
    answer := .accepted (some (o n)) }

/-- What a mismatching byte that is not kept does (R143, R145): it costs a discard and the search restarts,
or it exhausts the limit `m` and ends the capture with `SyncError(ATTEMPTS, discards)`. -/
def SkipsByte (i : Instr) (s : State) (m : Nat) : Prop :=
  (s.discards + 1 < m →
    exec i s =
      .next { s with
        cur := []
        discards := s.discards + 1
        expect := 1
        answer := .accepted none }) ∧
  (m ≤ s.discards + 1 →
    exec i s = .next (endedBy .errSyncAttempts (.syncError .attempts) (s.discards + 1) s))

/-- The rule of one position 2 to 13 (R148 to R159): accepted where `expect` is the position, else a mismatch. -/
def PositionRule (k next : Nibble) (op : Nibble → Instr) : Prop :=
  ∀ (d : Nibble) (s : State), s.phase = .hunt →
    decode (.iw (inputWordOf 0 (byteOf k d))) = .ok (op d) ∧
    (s.expect = k →
      exec (op d) s =
        .next { s with
          cur := s.cur ++ [byteOf k d]
          expect := next
          answer := .accepted none }) ∧
    (∀ m, s.maxAtt = some m → s.expect ≠ k → SkipsByte (op d) s m)

/-- An identity is in the FlagSet. -/
def FlagSet.has (fs : FlagSet) : FlagId → Prop
  | .scale x => x ∈ fs.scaleSet
  | .unit x => x ∈ fs.unitSet
  | .submode x => x ∈ fs.submodeSet
  | .mode x => x ∈ fs.modeSet
  | .reserved p j => (p, j) ∈ fs.reservedFlags

/-- An operation's only effect is on the workspace's FlagSet, which goes from the old one to `fs`. -/
def WritesFlags (i : Instr) (s : State) (fs : FlagSet) : Prop :=
  exec i s = .next { s with work := { s.work with flags := fs }, answer := .accepted none }

/-- The rule of one flag byte (R202, R205 to R210): the identities of the set bits are added, and the raw
nibble, `shift` places from the right. -/
def FlagByteRule (p : FlagPos) (shift : Nat) (op : Nibble → Instr) : Prop :=
  ∀ (b : Nibble) (s : State), ∃ fs,
    WritesFlags (op b) s fs ∧
    (∀ x, fs.has x ↔
      s.work.flags.has x ∨
        ∃ j : Fin 4, b.getLsbD j.val = true ∧ x = identityAt (s.config.flagTable p j) p j) ∧
    fs.rawFlags = s.work.flags.rawFlags ||| (b.zeroExtend 24 <<< shift)

/-- The rule of one flag bit (R202): the table's identity is added, and one raw bit; and what the identity is
in the reference table (R204). -/
def FlagBitRule (i : Instr) (p : FlagPos) (j : Fin 4) (x : FlagId) (mask : BitVec 24) : Prop :=
  identityAt (referenceConfig.flagTable p j) p j = x ∧
  ∀ s : State, ∃ fs,
    WritesFlags i s fs ∧ (∀ y, fs.has y ↔ s.work.flags.has y ∨ y = identityAt (s.config.flagTable p j) p j) ∧
    fs.rawFlags = s.work.flags.rawFlags ||| mask

/-- The rule of one slot (R171, R172, R179 to R182): the word of the nibbles `a`, `c` decodes to the operation
with `fb = a[3]` and `key = a[2:0] ++ c`, whose only effect is to write that slot. -/
def SlotRule (n : SlotNo) (op : Bool → SegKey → Instr) (write : SlotOut → DecodeWork → DecodeWork) : Prop :=
  ∀ (a c : Nibble) (s : State),
    let fb := a.getLsbD 3
    let key : SegKey := a.extractLsb' 0 3 ++ c
    decode (.slot n (a ++ c)) = .ok (op fb key) ∧
    (∀ ch, s.config.segTable key = some ch →
      exec (op fb key) s =
        .next { s with work := write ⟨fb, key, .char ch, true⟩ s.work, answer := .accepted none }) ∧
    (s.config.segTable key = none →
      exec (op fb key) s =
        .next { s with work := write ⟨fb, key, .invalid, false⟩ s.work, answer := .accepted none })

/-- The rule of one segment key: it is looked up in the table (R56), and what it shows in the reference table
(R175). -/
def SegKeyRule (i : Instr) (key : SegKey) (ch : DisplayChar) : Prop :=
  referenceConfig.segTable key = some ch ∧
  ∀ s : State,
    exec i s =
      .next { s with work := { s.work with seg := some (key, s.config.segTable key) }, answer := .accepted none }

/-- The value of a decimal digit character. -/
def charDigit (c : Char) : Option Nat :=
  if 48 ≤ c.toNat ∧ c.toNat ≤ 57 then some (c.toNat - 48) else none

/-- Reads an unsigned decimal numeral: the digits as one number, and how many stand after the point
(`none` before the point is seen). -/
def readNumeral : List Char → Nat → Option Nat → Option (Nat × Option Nat)
  | [], m, f => some (m, f)
  | c :: cs, m, f =>
    if c = '.' then
      match f with
      | none => readNumeral cs m (some 0)
      | some _ => none
    else
      match charDigit c with
      | some d => readNumeral cs (10 * m + d) (f.map (· + 1))
      | none => none

/-- Parses a display string as a real number (R238: "parsing `rawVal` as a real number"). -/
def parseReal (l : List Char) : Option ℚ :=
  let (neg, body) := match l with
    | '-' :: rest => (true, rest)
    | _ => (false, l)
  match readNumeral body 0 none with
  | some (m, f) => some ((if neg then -1 else 1) * ((m : ℚ) / 10 ^ f.getD 0))
  | none => none

end Sys2Proof.Machine
end

