-- ==== Sys2Proof/Certificates/Slice0/Obligations.lean ====
section
/-! DEFINITION. The statements for the provers. Each docstring names the rule of the spec it formalises; the rule's
file and sentence stand in OBLIGATIONS.json. `StepRunsDecodedInstruction` ties the statements about `exec` to
runs of `step`. -/

open Sys2Proof Sys2Proof.Machine

/-- R35: the registers after reset. -/
def Obligations.ResetStateValues : Prop :=
  State.reset.registers = ⟨.idle, 1, [], 0, none, .none, none, none⟩

/-- R290: `RESET` is enabled in both phases, erases every register, gives no outcome and leaves the byte source's offers alone (`input`, assumption log 2); completion of `RESET`. -/
def Obligations.ResetFromAnyState : Prop :=
  decode (.pin 1) = .ok .reset ∧
  ∀ s : State, ∃ t, exec .reset s = .next t ∧ t.registers = ⟨.idle, 1, [], 0, none, .none, none, none⟩ ∧
    t.answer = .accepted none ∧ t.input = s.input

/-- R120: an offered word that decodes to an instruction runs it, the offer being answered. The offers stand in the model's own field `input` (assumption log 2). -/
def Obligations.StepRunsDecodedInstruction : Prop :=
  ∀ (s : State) (w : PortWord) (rest : List PortWord) (i : Instr),
    s.input = w :: rest → decode w = .ok i → step s = exec i { s with input := rest }

/-- R6: nothing but an event changes a register. With nothing offered the block waits; of the words that are no row of the table, a low pin is no event, a key is looked up like any other (R56, R90), and a nibble without one set flag bit adds what its set bits stand for (R202) (assumption log 1, 2, 12). -/
def Obligations.StepWithoutInstruction : Prop :=
  (∀ s : State, s.input = [] → step s = .next { s with answer := .idle }) ∧
    ∀ (s : State) (w : PortWord) (rest : List PortWord) (e : DecodeError),
      s.input = w :: rest → decode w = .error e →
        (w = .pin 0 → step s = .next { s with input := rest, answer := .idle }) ∧
        (∀ k, w = .segKey k →
          step s =
            .next { s with
              input := rest
              answer := .accepted none
              work := { s.work with seg := some (k, s.config.segTable k) } }) ∧
        (∀ p n, w = .flagBit p n →
          ∃ fs, step s =
              .next { s with
                input := rest
                answer := .accepted none
                work := { s.work with flags := fs } } ∧
            ∀ x, fs.has x ↔
              s.work.flags.has x ∨
                ∃ j : Fin 4, n.getLsbD j.val = true ∧ x = identityAt (s.config.flagTable p j) p j) ∧
        (w = .pin 0 ∨ (∃ k, w = .segKey k) ∨ ∃ p n, w = .flagBit p n)

/-- The word of an opcode-table row, placed by `withFetchWord`, is decoded and run by the very next step (assumption log 11). -/
def Obligations.TableWordRunsNext : Prop :=
  ∀ (s : State) (nbits w : Nat) (i : Instr),
    decodeTableWord nbits w = some i → step (s.withFetchWord nbits w) = exec i s

/-- The words of spec/95_test_vectors.md V-ENC and V-SLOT and of rows of R98, bit by bit, decode to the operation the spec names. -/
def Obligations.SpecWordsDecode : Prop :=
  decode (.iw 0b0001001011) = .ok (.pos4 0xB) ∧ decode (.iw 0b0000000000) = .ok (.tag0 0) ∧
    decode (.iw 0b0011111111) = .ok (.tag15 0xF) ∧ decode (.iw 0b0011100000) = .ok (.pos14 0) ∧
    decode (.iw 0b0100000011) = .ok (.start 3) ∧ decode (.iw 0b1010100101) = .ok .timeout ∧
    decode (.iw 0b1111111111) = .ok .xfail ∧ decode (.pin 1) = .ok .reset ∧
    decode (.slot .s1 0b10100111) = .ok (.slot1 true 0x27) ∧
    decode (.flagNibble .p13 0b1101) = .ok (.flags13 0xD) ∧
    decode (.segKey 0b1101000) = .ok .segL ∧ decode (.flagBit .p12 0b0010) = .ok .flagDelta

/-- R81: every input word is exactly one event, by its kind. -/
def Obligations.InputWordsDecodeTotally : Prop :=
  (∀ b : Byte, ∃ d : Nibble,
      decode (.iw (inputWordOf 0 b)) = .ok (decodeByte b) ∧ b = byteOf (tagOf b) d) ∧
    (∀ m : BitVec 8, decode (.iw (inputWordOf 1 m)) = .ok (.start m.toNat)) ∧
    (∀ x : BitVec 8, decode (.iw (inputWordOf 2 x)) = .ok .timeout) ∧
    (∀ x : BitVec 8, decode (.iw (inputWordOf 3 x)) = .ok .xfail) ∧
    (∀ w : InputWord, ∃ i, decode (.iw w) = .ok i) ∧ (∀ w : InputWord, inputWordOf (kindOf w) (payloadOf w) = w)

/-- R88, R98: the decoder reads every encoded instruction back, whatever the configuration; and a word that decodes is its instruction's encoding, but for the ignored payload of `TIMEOUT` and `XFAIL` (R92) and for the abstract event (assumption log 26), which is the encoding of the limits that do not fit 8 bits. -/
def Obligations.DecodeEncodeAgree : Prop :=
  (∀ i : Instr, decode (encode i) = .ok i) ∧
    (∀ (w : PortWord) (i : Instr), decode w = .ok i → i ≠ .timeout → i ≠ .xfail → (∀ m, w ≠ .startEvent m) →
      encode i = w) ∧
    ∀ m : Nat, decode (.startEvent m) = .ok (.start m) ∧ (256 ≤ m → encode (.start m) = .startEvent m)

/-- R121: `START(m)` in `IDLE`, and R126: it is ignored in `HUNT`, for every `m` below `2^ATT_W` of the configuration; completion of `START`. What becomes of the model's own workspace is left to `WorkspaceFollowsLatch`. -/
def Obligations.StartBeginsCapture : Prop :=
  (∀ m : BitVec 8, decode (.iw (inputWordOf 0b01 m)) = .ok (.start m.toNat)) ∧
  ∀ (m : Nat) (s : State), m < 2 ^ s.config.attW →
    (s.phase = .idle →
      ∃ w : DecodeWork, exec (.start m) s =
        .next { s with
          maxAtt := some m
          result := .none
          outFrame := none
          outCount := none
          expect := 1
          cur := []
          discards := 0
          phase := .hunt
          answer := .accepted none
          work := w }) ∧
    (s.phase = .hunt → exec (.start m) s = .next { s with answer := .accepted none })

/-- R122, R263: `TIMEOUT` in `HUNT`, whatever `expect`, `cur` and `discards` are; ignored in `IDLE`; completion of `TIMEOUT`. -/
def Obligations.TimeoutEndsCapture : Prop :=
  (∀ x : BitVec 8, decode (.iw (inputWordOf 0b10 x)) = .ok .timeout) ∧
  ∀ s : State,
    (s.phase = .hunt → exec .timeout s = .next (endedBy .errSyncTime (.syncError .time) s.discards s)) ∧
    (s.phase = .idle → exec .timeout s = .next { s with answer := .accepted none })

/-- R123, R265: `XFAIL` in `HUNT`; ignored in `IDLE`; completion of `XFAIL`. -/
def Obligations.XfailEndsCapture : Prop :=
  (∀ x : BitVec 8, decode (.iw (inputWordOf 0b11 x)) = .ok .xfail) ∧
  ∀ s : State,
    (s.phase = .hunt → exec .xfail s = .next (endedBy .errTransport .transportError s.discards s)) ∧
    (s.phase = .idle → exec .xfail s = .next { s with answer := .accepted none })

/-- R66: in `IDLE` a byte, whatever its tag, changes no register. The offer passes by and what becomes of the byte is the byte source's business (assumption log 3). -/
def Obligations.BytesNotEnabledInIdle : Prop :=
  ∀ (d : Nibble) (s : State), s.phase = .idle →
    ∀ i ∈ [Instr.tag0 d, .pos1 d, .pos2 d, .pos3 d, .pos4 d, .pos5 d, .pos6 d, .pos7 d, .pos8 d, .pos9 d,
        .pos10 d, .pos11 d, .pos12 d, .pos13 d, .pos14 d, .tag15 d],
      exec i s = .next { s with answer := .notEnabled }

/-- R126: `in_ready` is 0 exactly for a byte in `IDLE`, and that is exactly when the block answers that the event is not enabled. -/
def Obligations.ReadyPortTellsEnabled : Prop :=
  ∀ (w : InputWord) (s t : State),
    (inReady s w = false ↔ s.phase = .idle ∧ kindOf w = 0) ∧
    (exec (decodeInputWord w) s = .next t → (t.answer = .notEnabled ↔ inReady s w = false))

/-- R147: `POS1` is accepted at `expect` 1 and otherwise mismatches but is kept as the new candidate; completion of `POS1`. -/
def Obligations.Pos1Rule : Prop :=
  ∀ (d : Nibble) (s : State), I2 s → s.phase = .hunt →
    decode (.iw (inputWordOf 0b00 (byteOf 0b0001 d))) = .ok (.pos1 d) ∧
    (s.expect = 1 →
      exec (.pos1 d) s =
        .next { s with cur := [byteOf 1 d], expect := 2, answer := .accepted none }) ∧
    (∀ m, s.maxAtt = some m → s.expect ≠ 1 →
      (s.discards + 1 < m →
        exec (.pos1 d) s =
          .next { s with
            cur := [byteOf 1 d]
            expect := 2
            discards := s.discards + 1
            answer := .accepted none }) ∧
      (m ≤ s.discards + 1 →
        exec (.pos1 d) s = .next (endedBy .errSyncAttempts (.syncError .attempts) (s.discards + 1) s)))

/-- R148 to R159: `POS2` to `POS13`; completion of these twelve. -/
def Obligations.InnerPositionBytesRule : Prop :=
  PositionRule 2 3 .pos2 ∧
    PositionRule 3 4 .pos3 ∧
    PositionRule 4 5 .pos4 ∧
    PositionRule 5 6 .pos5 ∧
    PositionRule 6 7 .pos6 ∧
    PositionRule 7 8 .pos7 ∧
    PositionRule 8 9 .pos8 ∧
    PositionRule 9 10 .pos9 ∧
    PositionRule 10 11 .pos10 ∧
    PositionRule 11 12 .pos11 ∧
    PositionRule 12 13 .pos12 ∧
    PositionRule 13 14 .pos13

/-- R160: `POS14` completes the frame at `expect` 14 and otherwise mismatches, and is the only operation that produces a frame; completion of `POS14`. What becomes of the model's own workspace is left to `WorkspaceFollowsLatch`. -/
def Obligations.Pos14Rule : Prop :=
  (∀ (d : Nibble) (s : State), s.phase = .hunt →
    decode (.iw (inputWordOf 0b00 (byteOf 0b1110 d))) = .ok (.pos14 d) ∧
    (∀ F : Frame, s.expect = 14 → s.cur ++ [byteOf 14 d] = F.toList →
      ∃ w : DecodeWork, exec (.pos14 d) s =
        .next { s with
          outFrame := some F
          result := .ok
          outCount := some s.discards
          phase := .idle
          expect := 1
          cur := []
          discards := 0
          answer := .accepted (some (.frame F s.discards))
          work := w }) ∧
    (∀ m, s.maxAtt = some m → s.expect ≠ 14 → SkipsByte (.pos14 d) s m)) ∧
  ∀ (i : Instr) (s t : State) (F : Frame) (n : Nat),
    exec i s = .next t → t.answer = .accepted (some (.frame F n)) → ∃ d, i = .pos14 d

/-- R161, R162: `TAG0` and `TAG15` mismatch in every state of a capture; completion of both. -/
def Obligations.StrayTagRule : Prop :=
  ∀ (d : Nibble) (s : State) (m : Nat), s.phase = .hunt → s.maxAtt = some m →
    decode (.iw (inputWordOf 0b00 (byteOf 0b0000 d))) = .ok (.tag0 d) ∧
    decode (.iw (inputWordOf 0b00 (byteOf 0b1111 d))) = .ok (.tag15 d) ∧
    SkipsByte (.tag0 d) s m ∧ SkipsByte (.tag15 d) s m

/-- R163: all transitions of a byte in `HUNT`, over every byte and every state that meets the invariants. -/
def Obligations.ByteTransitionTable : Prop :=
  ∀ (b : Byte) (s : State) (m : Nat), Invariants s → s.phase = .hunt → s.maxAtt = some m →
    (tagOf b = s.expect → s.expect.toNat ≤ 13 → ∃ t, exec (decodeByte b) s = .next t ∧
      t.registers = ⟨.hunt, s.expect + 1, s.cur ++ [b], s.discards, some m, .none, none, none⟩ ∧
      t.answer = .accepted none) ∧
    (tagOf b = s.expect → s.expect = 14 → ∃ t F, exec (decodeByte b) s = .next t ∧
      s.cur ++ [b] = F.toList ∧ F.tagged ∧
      t.registers = ⟨.idle, 1, [], 0, some m, .ok, some F, some s.discards⟩ ∧
      t.answer = .accepted (some (.frame F s.discards))) ∧
    (tagOf b ≠ s.expect → m ≤ s.discards + 1 → ∃ t, exec (decodeByte b) s = .next t ∧
      t.registers = ⟨.idle, 1, [], 0, some m, .errSyncAttempts, none, some (s.discards + 1)⟩ ∧
      t.answer = .accepted (some (.syncError .attempts (s.discards + 1)))) ∧
    (tagOf b ≠ s.expect → s.discards + 1 < m → tagOf b = 1 → ∃ t, exec (decodeByte b) s = .next t ∧
      t.registers = ⟨.hunt, 2, [b], s.discards + 1, some m, .none, none, none⟩ ∧
      t.answer = .accepted none) ∧
    (tagOf b ≠ s.expect → s.discards + 1 < m → tagOf b ≠ 1 → ∃ t, exec (decodeByte b) s = .next t ∧
      t.registers = ⟨.hunt, 1, [], s.discards + 1, some m, .none, none, none⟩ ∧
      t.answer = .accepted none)

/-- R260, R261: which operation raises which exception and what is recorded, in every state that meets the invariants. -/
def Obligations.ExceptionSources : Prop :=
  resultCode .ok = 1 ∧ resultCode .errSyncAttempts = 2 ∧ resultCode .errSyncTime = 3 ∧
  resultCode .errTransport = 4 ∧
  ∀ (i : Instr) (s t : State) (m : Nat), Invariants s → s.maxAtt = some m → exec i s = .next t →
    (∀ F n, t.answer = .accepted (some (.frame F n)) →
      t.result = .ok ∧ t.outCount = some n ∧ n = s.discards ∧ t.outFrame = some F) ∧
    (∀ n, t.answer = .accepted (some (.syncError .attempts n)) →
      (∃ b : Byte, i = decodeByte b) ∧ t.result = .errSyncAttempts ∧ t.outCount = some n ∧ t.outFrame = none ∧
        n = max m 1) ∧
    (∀ n, t.answer = .accepted (some (.syncError .time n)) →
      i = .timeout ∧ t.result = .errSyncTime ∧ t.outCount = some n ∧ t.outFrame = none ∧
        n = s.discards ∧ n < max m 1) ∧
    (∀ n, t.answer = .accepted (some (.transportError n)) →
      i = .xfail ∧ t.result = .errTransport ∧ t.outCount = some n ∧ t.outFrame = none ∧
        n = s.discards ∧ n < max m 1)

/-- R273: exceptions do not nest: every capture outcome is answered from `HUNT` and leaves `IDLE`. -/
def Obligations.ExceptionsOnlyInHunt : Prop :=
  ∀ (i : Instr) (s t : State) (o : CaptureOutcome),
    exec i s = .next t → t.answer = .accepted (some o) →
      s.phase = .hunt ∧ t.phase = .idle ∧ t.expect = 1 ∧ t.cur = [] ∧ t.discards = 0 ∧ t.maxAtt = s.maxAtt

/-- R30: the outcome a step returns and the registers it leaves agree. -/
def Obligations.OutcomeAgreesWithRegisters : Prop :=
  ∀ (i : Instr) (s t : State), exec i s = .next t →
    (∀ F n, t.answer = .accepted (some (.frame F n)) →
      t.result = .ok ∧ t.outFrame = some F ∧ t.outCount = some n) ∧
    (∀ n, t.answer = .accepted (some (.syncError .attempts n)) →
      t.result = .errSyncAttempts ∧ t.outCount = some n) ∧
    (∀ n, t.answer = .accepted (some (.syncError .time n)) → t.result = .errSyncTime ∧ t.outCount = some n) ∧
    (∀ n, t.answer = .accepted (some (.transportError n)) → t.result = .errTransport ∧ t.outCount = some n)

/-- R278: `done` is high after a step exactly when the step ended a capture by an outcome. -/
def Obligations.CaptureEndsExactlyWithDone : Prop :=
  ∀ (i : Instr) (s t : State), i ≠ .reset → exec i s = .next t →
    (done t = true ↔ s.phase = .hunt ∧ t.phase = .idle)

/-- R25, R27, R38: which operations may change `max_att`, `out_frame` and `result`. -/
def Obligations.RegisterWriters : Prop :=
  ∀ (i : Instr) (s t : State), exec i s = .next t →
    (t.maxAtt ≠ s.maxAtt → i = .reset ∨ ∃ m, i = .start m) ∧
    (t.outFrame ≠ s.outFrame → i = .reset ∨ (∃ m, i = .start m) ∨ ∃ d, i = .pos14 d) ∧
    (t.result ≠ s.result → i = .reset ∨ (∃ m, i = .start m) ∨ i = .timeout ∨ i = .xfail ∨ ∃ b : Byte, i = decodeByte b)

/-- R29: the invariants hold in the reset state. -/
def Obligations.InvariantsAtReset : Prop :=
  Invariants State.reset

/-- R29: the invariants hold between any two steps. -/
def Obligations.StepKeepsInvariants : Prop :=
  ∀ s t : State, Invariants s → step s = .next t → Invariants t

/-- The FlagSet of the decode workspace (a field of the model, assumption log 1, 14) starts in its one form. -/
def Obligations.CanonicalFlagSetsAtReset : Prop :=
  State.reset.work.flags.Canonical

/-- The FlagSet of the decode workspace keeps its one form, so that equal sets are equal data (assumption log 14). -/
def Obligations.StepKeepsFlagSetsCanonical : Prop :=
  ∀ s t : State, s.work.flags.Canonical → step s = .next t → t.work.flags.Canonical

/-- R120: never a fault, and every well-formed instruction in every state that meets the invariants has an answer. The one refusal is the `START` whose operand does not fit `ATT_W` bits (U15 of spec/93_implementation_defined.md), and `step` refuses nothing else. -/
def Obligations.EveryEnabledEventHasAnswer : Prop :=
  (∀ (i : Instr) (s : State), Invariants s → i.wf s.config = true → ∃ t, exec i s = .next t) ∧
    (∀ (m : Nat) (s : State), 2 ^ s.config.attW ≤ m → exec (.start m) s = .refused (.operandTooWide m)) ∧
    ∀ s : State, Invariants s →
      (∃ t, step s = .next t) ∨
        ∃ w rest m, s.input = w :: rest ∧ decode w = .ok (.start m) ∧ 2 ^ s.config.attW ≤ m ∧
          step s = .refused (.operandTooWide m)

/-- R24, R245: no counter overflows its `ATT_W` bits, and `discards` never passes `max(max_att, 1)`. -/
def Obligations.CountersFitTheirWidth : Prop :=
  ∀ (s t : State) (m : Nat), s.config.widthOk = true → Invariants s → step s = .next t → t.maxAtt = some m →
    t.discards < max m 1 ∧ max m 1 < 2 ^ t.config.attW ∧
      (∀ n, t.outCount = some n → n ≤ max m 1) ∧ t.expect.toNat ≤ 14

/-- R36, R170, R200: no decode operation writes a register, in any state. -/
def Obligations.DecodeOperationsKeepRegisters : Prop :=
  ∀ (i : Instr) (s t : State), exec i s = .next t →
    (∀ m, i ≠ .start m) → i ≠ .timeout → i ≠ .xfail → i ≠ .reset → (∀ b : Byte, i ≠ decodeByte b) →
      t.registers = s.registers ∧ t.input = s.input

/-- R36: no decoded field feeds back into the synchronizer: two states with equal registers and offers go on with equal registers and offers, or both stop; the two tables may differ, only `ATT_W` is the same. -/
def Obligations.SynchronizerIgnoresDecodedFields : Prop :=
  ∀ s₁ s₂ t₁ : State, s₁.registers = s₂.registers → s₁.input = s₂.input → s₁.config.attW = s₂.config.attW →
    step s₁ = .next t₁ →
    ∃ t₂, step s₂ = .next t₂ ∧ t₁.registers = t₂.registers ∧ t₁.input = t₂.input ∧ t₁.answer = t₂.answer

/-- R32: after `START` nothing of an earlier capture is left. That the whole states are equal rests on the emptied workspace, which is the model's choice (assumption log 19). -/
def Obligations.StartForgetsThePast : Prop :=
  ∀ (m : Nat) (s₁ s₂ t₁ : State), s₁.phase = .idle → s₂.phase = .idle → s₁.input = s₂.input → s₁.config = s₂.config →
    exec (.start m) s₁ = .next t₁ → exec (.start m) s₂ = .next t₁

/-- R164, first property: a correctly tagged frame after `START(m)` is returned with zero discards, from any state in `IDLE` and for every `m`. The emptied workspace is the model's choice (assumption log 19). -/
def Obligations.CleanFrameIsCaptured : Prop :=
  ∀ (s : State) (m : Nat) (F : Frame) (rest : List PortWord), s.phase = .idle → F.tagged → m < 2 ^ s.config.attW →
    s.input = encode (.start m) :: byteWords F.toList ++ rest →
      Host.Core.run Sys2Proof.core 15 s =
        .next { s with
          phase := .idle
          expect := 1
          cur := []
          discards := 0
          maxAtt := some m
          result := .ok
          outFrame := some F
          outCount := some 0
          input := rest
          answer := .accepted (some (.frame F 0))
          work := DecodeWork.empty }

/-- R164, second property, from the state any prefix leaves: with `k` discards so far and `k' = k` or `k + 1` (an open candidate costs one more), a valid frame is returned with `k'` when `m > k'`, and the limit is reached when `m <= k'`. The emptied workspace is the model's choice (assumption log 19), and so is that the offers not enabled after the limit pass by (assumption log 3). -/
def Obligations.ResyncReturnsValidFrame : Prop :=
  ∀ (s : State) (m : Nat) (F : Frame) (rest : List PortWord), Invariants s → s.phase = .hunt → s.maxAtt = some m →
    F.tagged → s.input = byteWords F.toList ++ rest →
      let k' := if s.expect = 1 then s.discards else s.discards + 1
      (k' < m →
        Host.Core.run Sys2Proof.core 14 s =
          .next { s with
            phase := .idle
            expect := 1
            cur := []
            discards := 0
            result := .ok
            outFrame := some F
            outCount := some k'
            input := rest
            answer := .accepted (some (.frame F k'))
            work := DecodeWork.empty }) ∧
      (1 ≤ k' → m ≤ k' → ∃ t, step s = .next t ∧
        t.answer = .accepted (some (.syncError .attempts (max m 1))) ∧ t.phase = .idle ∧
        ∃ u, Host.Core.run Sys2Proof.core 14 s = .next u ∧ u.registers = t.registers ∧ u.input = rest)

/-- R171, R172, R179 to R182 under every table: completion of the four slot operations. Where they write is the model's (assumption log 1). -/
def Obligations.SlotOperationsWriteTheirSlot : Prop :=
  SlotRule .s1 .slot1 (fun o w => { w with slot1 := some o }) ∧
    SlotRule .s2 .slot2 (fun o w => { w with slot2 := some o }) ∧
    SlotRule .s3 .slot3 (fun o w => { w with slot3 := some o }) ∧
    SlotRule .s4 .slot4 (fun o w => { w with slot4 := some o })

/-- R202, R205 to R210 under every table: completion of the six flag-byte operations. Where they write is the model's (assumption log 1). -/
def Obligations.FlagByteOperationsAddTheirFlags : Prop :=
  FlagByteRule .p1 20 .flags1 ∧ FlagByteRule .p10 16 .flags10 ∧ FlagByteRule .p11 12 .flags11 ∧
    FlagByteRule .p12 8 .flags12 ∧ FlagByteRule .p13 4 .flags13 ∧ FlagByteRule .p14 0 .flags14

/-- R56, R175: the twelve `SEGKEY` rows look their key up in the configured table; completion of these twelve. What the reference table shows is assumption log 5, and where the answer goes is the model's (assumption log 13). -/
def Obligations.SegmentKeysAreLookedUp : Prop :=
  SegKeyRule .seg0 0x7D (.digit 0) ∧
    SegKeyRule .seg1 0x05 (.digit 1) ∧
    SegKeyRule .seg2 0x5B (.digit 2) ∧
    SegKeyRule .seg3 0x1F (.digit 3) ∧
    SegKeyRule .seg4 0x27 (.digit 4) ∧
    SegKeyRule .seg5 0x3E (.digit 5) ∧
    SegKeyRule .seg6 0x7E (.digit 6) ∧
    SegKeyRule .seg7 0x15 (.digit 7) ∧
    SegKeyRule .seg8 0x7F (.digit 8) ∧
    SegKeyRule .seg9 0x3F (.digit 9) ∧
    SegKeyRule .segBlank 0x00 .blank ∧
    SegKeyRule .segL 0x68 .el

/-- R202, R204: the 24 `FLAGBIT` rows add what the configured table holds at their address; completion of these 24. What the reference table holds is assumption log 6, and where the identity goes is the model's (assumption log 1). -/
def Obligations.FlagBitsAddTheirIdentity : Prop :=
  FlagBitRule .flagAc .p1 3 (.submode .ac) 0x800000 ∧
    FlagBitRule .flagDc .p1 2 (.submode .dc) 0x400000 ∧
    FlagBitRule .flagAutoRange .p1 1 (.mode .autoRange) 0x200000 ∧
    FlagBitRule .flagRs232 .p1 0 (.mode .rs232) 0x100000 ∧
    FlagBitRule .flagMicro .p10 3 (.scale .micro) 0x080000 ∧
    FlagBitRule .flagNano .p10 2 (.scale .nano) 0x040000 ∧
    FlagBitRule .flagKilo .p10 1 (.scale .kilo) 0x020000 ∧
    FlagBitRule .flagDiode .p10 0 (.submode .diode) 0x010000 ∧
    FlagBitRule .flagMilli .p11 3 (.scale .milli) 0x008000 ∧
    FlagBitRule .flagPercent .p11 2 (.unit .percent) 0x004000 ∧
    FlagBitRule .flagMega .p11 1 (.scale .mega) 0x002000 ∧
    FlagBitRule .flagContinuity .p11 0 (.submode .continuity) 0x001000 ∧
    FlagBitRule .flagFarads .p12 3 (.unit .farads) 0x000800 ∧
    FlagBitRule .flagOhms .p12 2 (.unit .ohms) 0x000400 ∧
    FlagBitRule .flagDelta .p12 1 (.mode .delta) 0x000200 ∧
    FlagBitRule .flagHold .p12 0 (.mode .hold) 0x000100 ∧
    FlagBitRule .flagAmps .p13 3 (.unit .amps) 0x000080 ∧
    FlagBitRule .flagVolts .p13 2 (.unit .volts) 0x000040 ∧
    FlagBitRule .flagHertz .p13 1 (.unit .hertz) 0x000020 ∧
    FlagBitRule .flagBatteryLow .p13 0 (.mode .batteryLow) 0x000010 ∧
    FlagBitRule .flagRsv14_3 .p14 3 (.reserved .p14 3) 0x000008 ∧
    FlagBitRule .flagRsv14_2 .p14 2 (.reserved .p14 2) 0x000004 ∧
    FlagBitRule .flagRsv14_1 .p14 1 (.reserved .p14 1) 0x000002 ∧
    FlagBitRule .flagRsv14_0 .p14 0 (.reserved .p14 0) 0x000001

/-- R170: the four slot and six flag-byte operations on a frame's content give `decode(F)`. -/
def Obligations.DecodeOperationsDecodeTheFrame : Prop :=
  ∀ (s : State) (F : Frame) (rest : List PortWord), s.input = decodeOps F ++ rest → s.work = DecodeWork.empty →
    ∃ t, Host.Core.run Sys2Proof.core 10 s = .next t ∧ t.registers = s.registers ∧ t.input = rest ∧
      workDigits t.work = some (decodeFrame s.config F).digits ∧
      t.work.flags = (decodeFrame s.config F).flags

/-- R177, R178: the sign and the decimal points of every frame, for every configuration. -/
def Obligations.SignAndDecimalPointBits : Prop :=
  ∀ (c : Config) (F : Frame),
    let d := (decodeFrame c F).digits
    d.sign = (dataOf F.f2).getLsbD 3 ∧ d.dpbit2 = (dataOf F.f4).getLsbD 3 ∧
      d.dpbit3 = (dataOf F.f6).getLsbD 3 ∧ d.dpbit4 = (dataOf F.f8).getLsbD 3 ∧
      d.dpCount = d.dpbit2.toNat + d.dpbit3.toNat + d.dpbit4.toNat ∧
      (d.dp = some 1 ↔ d.dpCount = 1 ∧ d.dpbit2 = true) ∧ (d.dp = some 2 ↔ d.dpCount = 1 ∧ d.dpbit3 = true) ∧
      (d.dp = some 3 ↔ d.dpCount = 1 ∧ d.dpbit4 = true) ∧ (d.dp = none ↔ d.dpCount = 0 ∨ 2 ≤ d.dpCount)

/-- R231, R232: the four checks, the reason vector and `sane`, for every frame and configuration. -/
def Obligations.SanityClassification : Prop :=
  ∀ (c : Config) (F : Frame) (n : Nat),
    let f := decodeFrame c F
    let r := assemble f n
    (r.reason.getLsbD 0 = true ↔ 2 ≤ f.digits.dpbit2.toNat + f.digits.dpbit3.toNat + f.digits.dpbit4.toNat) ∧
      (r.reason.getLsbD 1 = true ↔ 2 ≤ f.flags.scaleSet.length) ∧
      (r.reason.getLsbD 2 = true ↔ 2 ≤ f.flags.unitSet.length) ∧
      (r.reason.getLsbD 3 = true ↔
        ∃ s : SlotNo, c.segTable (F.slotKeyOf s) = none) ∧
      (r.sane = true ↔ r.reason = 0)

/-- R234: `rawVal` with its sign and every set point, 4 to 8 characters. -/
def Obligations.RawValIsTheDisplay : Prop :=
  ∀ (c : Config) (F : Frame) (n : Nat),
    let d := (decodeFrame c F).digits
    let r := readingOf c F n
    r.rawVal = (if d.sign then ['-'] else []) ++ glyph d.slot1.ch ::
        ((if d.dpbit2 then ['.'] else []) ++ glyph d.slot2.ch ::
          ((if d.dpbit3 then ['.'] else []) ++ glyph d.slot3.ch ::
            ((if d.dpbit4 then ['.'] else []) ++ [glyph d.slot4.ch]))) ∧
      4 ≤ r.rawVal.length ∧ r.rawVal.length ≤ 8 ∧
      (∀ k : Fin 10, glyph (.char (.digit k)) = ['0', '1', '2', '3', '4', '5', '6', '7', '8', '9'].get k) ∧
      glyph (.char .blank) = ' ' ∧ glyph (.char .el) = 'L' ∧ glyph .invalid = '?'

/-- R235: when `numericVal` is present, for every frame and configuration. -/
def Obligations.NumericPresence : Prop :=
  ∀ (c : Config) (F : Frame) (n : Nat),
    let f := decodeFrame c F
    ((assemble f n).numeric.isSome = true ↔
      (∀ s : SlotNo, ∃ k : Fin 10, c.segTable (F.slotKeyOf s) = some (.digit k)) ∧
        f.digits.dpbit2.toNat + f.digits.dpbit3.toNat + f.digits.dpbit4.toNat ≤ 1 ∧
        f.flags.scaleSet.length ≤ 1)

/-- R236 to R238, R245: the triple of a present value and its bounds. -/
def Obligations.NumericMantissaAndExponent : Prop :=
  ∀ (c : Config) (F : Frame) (n : Nat) (v : Numeric) (d1 d2 d3 d4 : Fin 10),
    (assemble (decodeFrame c F) n).numeric = some v →
    c.segTable (F.slotKeyOf .s1) = some (.digit d1) → c.segTable (F.slotKeyOf .s2) = some (.digit d2) →
    c.segTable (F.slotKeyOf .s3) = some (.digit d3) → c.segTable (F.slotKeyOf .s4) = some (.digit d4) →
      v.sign = (decodeFrame c F).digits.sign ∧
      v.mantissa = 1000 * d1.val + 100 * d2.val + 10 * d3.val + d4.val ∧ v.mantissa ≤ 9999 ∧
      (∃ e : Int,
        (((decodeFrame c F).flags.scaleSet = [] ∧ e = 0) ∨ ((decodeFrame c F).flags.scaleSet = [.nano] ∧ e = -9) ∨
          ((decodeFrame c F).flags.scaleSet = [.micro] ∧ e = -6) ∨
          ((decodeFrame c F).flags.scaleSet = [.milli] ∧ e = -3) ∨
          ((decodeFrame c F).flags.scaleSet = [.kilo] ∧ e = 3) ∨ ((decodeFrame c F).flags.scaleSet = [.mega] ∧ e = 6)) ∧
        v.exp10 = e - (match (decodeFrame c F).digits.dp with | some p => 4 - (p : Int) | none => 0)) ∧
      -12 ≤ v.exp10 ∧ v.exp10 ≤ 6

/-- R238: the exact value equals `rawVal` parsed as a real number times the power of ten of the scale, without rounding (the exponents of micro and kilo: assumption log 8; `rawVal` as characters: 15). -/
def Obligations.NumericIsParsedRawVal : Prop :=
  ∀ (c : Config) (F : Frame) (n : Nat) (v : Numeric),
    (readingOf c F n).numeric = some v →
      ∃ (x : ℚ) (e : Int), parseReal (readingOf c F n).rawVal = some x ∧
        scaleExpOf (decodeFrame c F).flags.scaleSet = some e ∧ v.value = x * (10 : ℚ) ^ e

/-- R239 to R243: `measurement`, `scale`, `acdc`, `delta` and `readErrors`. -/
def Obligations.FieldsReadOffTheFlagSet : Prop :=
  ∀ (c : Config) (F : Frame) (n : Nat),
    let fs := (decodeFrame c F).flags
    let r := readingOf c F n
    (∀ u, r.measurement = some u ↔ fs.unitSet = [u]) ∧
      (r.measurement = none ↔ fs.unitSet = [] ∨ 2 ≤ fs.unitSet.length) ∧
      (∀ p, r.scale = some p ↔ fs.scaleSet = [p]) ∧
      (r.scale = none ↔ fs.scaleSet = [] ∨ 2 ≤ fs.scaleSet.length) ∧
      (r.acdc = .ac ↔ .ac ∈ fs.submodeSet ∧ .dc ∉ fs.submodeSet) ∧
      (r.acdc = .dc ↔ .dc ∈ fs.submodeSet ∧ .ac ∉ fs.submodeSet) ∧
      (r.acdc = .absent ↔ .ac ∉ fs.submodeSet ∧ .dc ∉ fs.submodeSet) ∧
      (r.acdc = .both ↔ .ac ∈ fs.submodeSet ∧ .dc ∈ fs.submodeSet) ∧
      acdcBits r.acdc = BitVec.ofBool (fs.submodeSet.contains .dc) ++ BitVec.ofBool (fs.submodeSet.contains .ac) ∧
      (r.delta = true ↔ .delta ∈ fs.modeSet) ∧ r.readErrors = n ∧
      (∀ k, readingOf c F k = { r with readErrors := k })

/-- R200, R202, R212: the FlagSet of a frame holds exactly the identities of its set flag bits, and `rawFlags` the 24 bits, for every configuration. -/
def Obligations.FrameFlagSetIsTheSetBits : Prop :=
  ∀ (c : Config) (F : Frame),
    (∀ x, (decodeFrame c F).flags.has x ↔
      ∃ (p : FlagPos) (j : Fin 4), F.flagSet p j = true ∧ x = identityAt (c.flagTable p j) p j) ∧
    (decodeFrame c F).flags.rawFlags =
      dataOf F.f1 ++ dataOf F.f10 ++ dataOf F.f11 ++ dataOf F.f12 ++ dataOf F.f13 ++ dataOf F.f14

/-- R91, R211: two frames that differ only in flag bits the table calls reserved give the same Reading, but for the raw bytes, the raw flags and `reservedFlags`; for every configuration. -/
def Obligations.ReservedBitsInfluenceNothing : Prop :=
  ∀ (c : Config) (F G : Frame) (n : Nat),
    (∀ s : SlotNo, F.slotWord s = G.slotWord s) →
    (∀ (p : FlagPos) (j : Fin 4), c.flagTable p j ≠ .reserved → F.flagSet p j = G.flagSet p j) →
      let r := readingOf c F n
      let q := readingOf c G n
      r.sane = q.sane ∧ r.reason = q.reason ∧ r.rawVal = q.rawVal ∧ r.numeric = q.numeric ∧
        r.measurement = q.measurement ∧ r.scale = q.scale ∧ r.acdc = q.acdc ∧ r.delta = q.delta ∧
        r.fields.digits = q.fields.digits ∧ r.fields.flags.scaleSet = q.fields.flags.scaleSet ∧
        r.fields.flags.unitSet = q.fields.flags.unitSet ∧ r.fields.flags.submodeSet = q.fields.flags.submodeSet ∧
        r.fields.flags.modeSet = q.fields.flags.modeSet

/-- R174 item 3 (the source's round-trip property): for every admissible table, the frame that shows four characters with a sign and points is correctly tagged and decodes to them. -/
def Obligations.DisplayRoundTrip : Prop :=
  ∀ (c : Config) (sign dp2 dp3 dp4 : Bool) (c1 c2 c3 c4 : DisplayChar) (flags : List FlagId),
    c.segOk = true → ∃ F, displayFrame c sign c1 c2 c3 c4 dp2 dp3 dp4 flags = some F ∧ F.tagged ∧
      let d := (decodeFrame c F).digits
      d.sign = sign ∧ d.dpbit2 = dp2 ∧ d.dpbit3 = dp3 ∧ d.dpbit4 = dp4 ∧
      d.slot1.ch = .char c1 ∧ d.slot2.ch = .char c2 ∧ d.slot3.ch = .char c3 ∧ d.slot4.ch = .char c4 ∧
      d.slot1.valid = true ∧ d.slot2.valid = true ∧ d.slot3.valid = true ∧ d.slot4.valid = true ∧
      ∀ (p : FlagPos) (j : Fin 4), F.flagSet p j = flags.contains (identityAt (c.flagTable p j) p j)

/-- R174, R203: the reference tables (assumption log 5, 6), which State.reset has, meet the constraints. -/
def Obligations.ReferenceTablesAdmissible : Prop :=
  referenceConfig.wf = true ∧ State.reset.config = referenceConfig ∧
    ∀ k₁ k₂ : SegKey, referenceConfig.segTable k₁ ≠ none → referenceConfig.segTable k₁ = referenceConfig.segTable k₂ → k₁ = k₂

/-- R37: a host read of a register or field without a value faults, in every state; and reads what is there otherwise. -/
def Obligations.HostReadsNeverInvent : Prop :=
  (∀ s : State, s.result ≠ .ok →
      readOutFrame s = .error (.noValue .outFrame) ∧ readReading s = .error (.noValue .decoded)) ∧
    (∀ s : State, s.result = .none → readOutCount s = .error (.noValue .outCount)) ∧
    (∀ s : State, Invariants s → s.result = .ok → ∃ F n, s.outFrame = some F ∧ s.outCount = some n ∧
      readOutFrame s = .ok F ∧ readOutCount s = .ok n ∧ readReading s = .ok (readingOf s.config F n)) ∧
    (∀ s : State, Invariants s → s.result ≠ .none → ∃ n, s.outCount = some n ∧ readOutCount s = .ok n)

/-- R269: events offered at the same instant reach the block in the order RESET, XFAIL, TIMEOUT, START, BYTE, none lost (the place of the decode operations is the model's, assumption log 20). -/
def Obligations.ArbiterOrdersOffers : Prop :=
  (∀ ws : List PortWord, (arbitrate ws).Perm ws ∧ (arbitrate ws).Pairwise (fun a b => offerRank a ≤ offerRank b)) ∧
    (∀ l : BitVec 1, offerRank (.pin l) < offerRank (encode .xfail)) ∧
    offerRank (encode .xfail) < offerRank (encode .timeout) ∧
    (∀ m : Nat, offerRank (encode .timeout) < offerRank (encode (.start m))) ∧
    (∀ (m : Nat) (b : Byte), offerRank (encode (.start m)) < offerRank (byteWord b))

/-- R269: a transport failure offered at the same instant as a byte ends the capture before the byte, which is then not enabled; that its offer passes by is assumption log 3. -/
def Obligations.TransportBeatsByte : Prop :=
  ∀ (s : State) (b : Byte), s.phase = .hunt → s.input = [] →
    Host.Core.run Sys2Proof.core 2 (offerTogether [byteWord b, encode .xfail] s) =
      .next { endedBy .errTransport .transportError s.discards s with input := [], answer := .notEnabled }

/-- The model's own workspace is emptied wherever `out_frame` is written and left alone by every other event (the model's choice, assumption log 19). -/
def Obligations.WorkspaceFollowsLatch : Prop :=
  ∀ (i : Instr) (s t : State), exec i s = .next t →
    (i = .reset → t.work = DecodeWork.empty) ∧
    (∀ m, i = .start m → (s.phase = .idle → t.work = DecodeWork.empty) ∧ (s.phase = .hunt → t.work = s.work)) ∧
    (∀ F n, t.answer = .accepted (some (.frame F n)) → t.work = DecodeWork.empty) ∧
    (i = .timeout ∨ i = .xfail → t.work = s.work) ∧
    (∀ b : Byte, i = decodeByte b → (∀ F n, t.answer ≠ .accepted (some (.frame F n))) → t.work = s.work)

/-- R62: no instruction and no step writes the configuration. -/
def Obligations.ConfigurationIsConstant : Prop :=
  (∀ (i : Instr) (s t : State), exec i s = .next t → t.config = s.config) ∧
    ∀ s t : State, step s = .next t → t.config = s.config

/-- R212: the hardware forms have exactly one bit per identity of the table, set where the identity is in the set, for every configuration and frame; four reserved bits in every admissible table; and the order of the bits in the reference table (assumption log 6). Under another table the order of the bits is the model's choice (assumption log 27). -/
def Obligations.SetsInHardwareForm : Prop :=
  (∀ (c : Config) (F : Frame),
    let fs := (decodeFrame c F).flags
    (∀ x : ScaleId, (scaleBits fs).getLsbD (scaleCode x) = true ↔ x ∈ fs.scaleSet) ∧
      (∀ x : SubmodeId, (submodeBits fs).getLsbD (submodeCode x) = true ↔ x ∈ fs.submodeSet) ∧
      (∀ k (h : k < (unitIds c).length), (unitBits c fs).getLsbD k = true ↔ (unitIds c)[k] ∈ fs.unitSet) ∧
      (∀ k (h : k < (modeIds c).length), (modeBits c fs).getLsbD k = true ↔ (modeIds c)[k] ∈ fs.modeSet) ∧
      (∀ k (h : k < (reservedIds c).length),
        (reservedBits c fs).getLsbD k = true ↔ (reservedIds c)[k] ∈ fs.reservedFlags)) ∧
    (∀ c : Config,
      (∀ u, u ∈ unitIds c ↔ ∃ p j, c.flagTable p j = .unit u) ∧ (unitIds c).Nodup ∧
        (∀ m, m ∈ modeIds c ↔ ∃ p j, c.flagTable p j = .mode m) ∧ (modeIds c).Nodup ∧
        (∀ p j, (p, j) ∈ reservedIds c ↔ c.flagTable p j = .reserved) ∧ (reservedIds c).Nodup ∧
        (c.wf = true → (reservedIds c).length = 4)) ∧
    unitIds referenceConfig = [.volts, .amps, .ohms, .farads, .hertz, .percent] ∧
    modeIds referenceConfig = [.delta, .hold, .batteryLow, .autoRange, .rs232] ∧
    reservedIds referenceConfig = [(.p14, 0), (.p14, 1), (.p14, 2), (.p14, 3)]

/-- R125: the host's calls. `open` resets the block and starts a capture with its `retries`, and returns a session that remembers them, or the error; `read` starts a capture with the session's `retries` and returns the Reading, or the error; `close` offers nothing. -/
def Obligations.HostCallsAsEvents : Prop :=
  (∀ (s : State) (retries : Nat) (rest : List PortWord), retries < 2 ^ s.config.attW →
      s.input = openEvents retries ++ rest →
        ∃ t, Host.Core.run Sys2Proof.core 2 s = .next t ∧ t.input = rest ∧
          t.registers = ⟨.hunt, 1, [], 0, some retries, .none, none, none⟩) ∧
    (∀ retries timeout F n, openResult retries timeout (.frame F n) = .ok ⟨retries, timeout⟩) ∧
    (∀ retries timeout c n, openResult retries timeout (.syncError c n) = .error (.syncError c n) ∧
      openResult retries timeout (.transportError n) = .error (.transportError n)) ∧
    (∀ (s : State) (ses : Session) (rest : List PortWord), s.phase = .idle → ses.retries < 2 ^ s.config.attW →
      s.input = readEvents ses ++ rest →
        ∃ t, step s = .next t ∧ t.input = rest ∧
          t.registers = ⟨.hunt, 1, [], 0, some ses.retries, .none, none, none⟩) ∧
    (∀ c F n, readResult c (.frame F n) = .ok (readingOf c F n)) ∧
    (∀ c e n, readResult c (.syncError e n) = .error (.syncError e n) ∧
      readResult c (.transportError n) = .error (.transportError n)) ∧
    ∀ ses : Session, closeEvents ses = []
end

