-- ==== Sys2Proof/Laws/Decode.lean ====
section
/-! SUPPORT. The bit fields of the formats: each field read back from the word it is put in, and the word put
together again from its fields. -/

namespace Sys2Proof

@[simp] theorem tagOf_byteOf (t d : Nibble) : tagOf (byteOf t d) = t := by
  revert t d; decide

@[simp] theorem dataOf_byteOf (t d : Nibble) : dataOf (byteOf t d) = d := by
  revert t d; decide

@[simp] theorem byteOf_tag_data (b : Byte) : byteOf (tagOf b) (dataOf b) = b := by
  revert b; decide

/-- A byte is its tag and its data nibble. -/
theorem byteOf_of_tag {b : Byte} {t : Nibble} (h : tagOf b = t) : b = byteOf t (dataOf b) := by
  rw [← h, byteOf_tag_data]

@[simp] theorem kindOf_inputWordOf (k : BitVec 2) (p : BitVec 8) : kindOf (inputWordOf k p) = k := by
  apply BitVec.eq_of_getLsbD_eq
  intro i hi
  simp only [kindOf, inputWordOf, BitVec.getLsbD_extractLsb']
  rw [show (k ++ p : BitVec 10) = (k ++ p : BitVec (2 + 8)) from rfl, BitVec.getLsbD_append]
  simp [hi]

@[simp] theorem payloadOf_inputWordOf (k : BitVec 2) (p : BitVec 8) : payloadOf (inputWordOf k p) = p := by
  apply BitVec.eq_of_getLsbD_eq
  intro i hi
  simp only [payloadOf, inputWordOf, BitVec.getLsbD_extractLsb']
  rw [show (k ++ p : BitVec 10) = (k ++ p : BitVec (2 + 8)) from rfl, BitVec.getLsbD_append]
  simp [hi]

@[simp] theorem inputWordOf_fields (w : InputWord) : inputWordOf (kindOf w) (payloadOf w) = w := by
  apply BitVec.eq_of_getLsbD_eq
  intro i hi
  simp only [inputWordOf, kindOf, payloadOf, BitVec.getLsbD_append, BitVec.getLsbD_extractLsb']
  by_cases h : i < 8
  · simp [h]
  · have h2 : i - 8 < 2 := by omega
    have h3 : 8 + (i - 8) = i := by omega
    simp [h, h2, h3]

@[simp] theorem slotFlag_slotWordOf (fb : Bool) (key : SegKey) : slotFlag (slotWordOf fb key) = fb := by
  revert fb key; decide

@[simp] theorem slotKey_slotWordOf (fb : Bool) (key : SegKey) : slotKey (slotWordOf fb key) = key := by
  revert fb key; decide

@[simp] theorem slotWordOf_fields (w : BitVec 8) : slotWordOf (slotFlag w) (slotKey w) = w := by
  revert w; decide

/-- An input word of kind 0 decodes as its byte. -/
@[simp] theorem decode_byte (b : Byte) : decode (.iw (inputWordOf 0#2 b)) = .ok (decodeByte b) := by
  simp [decode, decodeInputWord]

end Sys2Proof
end

