-- ==== Sys2Proof/Laws/Flags.lean ====
section
/-! SUPPORT. The flag matcher: inserting keeps a set in its one form and adds exactly one member; adding a flag
keeps every set of a FlagSet in its form; the identities a table holds, and a set as bits (R212). -/

namespace Sys2Proof.Machine

variable {α : Type} {code : α → Nat}

theorem mem_setInsert_code {x y : α} {l : List α} (h : y ∈ setInsert code x l) :
    code y = code x ∨ y ∈ l := by
  induction l with
  | nil => simp_all [setInsert]
  | cons z zs ih =>
    unfold setInsert at h
    split at h
    · rcases List.mem_cons.mp h with rfl | h'
      · exact .inl rfl
      · exact .inr h'
    · split at h
      · exact .inr h
      · rcases List.mem_cons.mp h with rfl | h'
        · exact .inr List.mem_cons_self
        · rcases ih h' with h'' | h''
          · exact .inl h''
          · exact .inr (List.mem_cons_of_mem _ h'')

/-- `set ∪ {x}` keeps the strictly rising form. -/
theorem rising_setInsert (x : α) {l : List α} (h : rising code l) : rising code (setInsert code x l) := by
  induction l with
  | nil => simp [rising, setInsert]
  | cons y ys ih =>
    have hy : (∀ z ∈ ys, code y < code z) ∧ rising code ys := by simpa [rising] using h
    unfold setInsert
    split
    · rename_i hxy
      have : ∀ z ∈ ys, code x < code z := fun z hz => lt_trans hxy (hy.1 z hz)
      simpa [rising] using ⟨⟨hxy, this⟩, hy⟩
    · split
      · exact h
      · rename_i h1 h2
        have h3 : ∀ z ∈ setInsert code x ys, code y < code z := by
          intro z hz
          rcases mem_setInsert_code hz with hz' | hz'
          · omega
          · exact hy.1 z hz'
        simpa [rising] using ⟨h3, ih hy.2⟩

/-- The members of `set ∪ {x}`, for a numbering that tells the members apart. -/
theorem mem_setInsert (hc : Function.Injective code) {x y : α} {l : List α} :
    y ∈ setInsert code x l ↔ y = x ∨ y ∈ l := by
  induction l with
  | nil => simp [setInsert]
  | cons z zs ih =>
    unfold setInsert
    split
    · simp
    · split
      · rename_i h
        have := hc h
        subst this
        simp
      · simp only [List.mem_cons, ih]
        tauto

/-- Building a set from a list adds exactly the list's members. -/
theorem mem_foldr_setInsert (hc : Function.Injective code) (l : List α) (x : α) :
    x ∈ l.foldr (setInsert code) [] ↔ x ∈ l := by
  induction l with
  | nil => simp
  | cons y ys ih => simp [mem_setInsert hc, ih]

theorem rising_foldr_setInsert (l : List α) : rising code (l.foldr (setInsert code) []) := by
  induction l with
  | nil => simp [rising]
  | cons y ys ih => exact rising_setInsert _ ih

/-- A strictly rising list holds no member twice. -/
theorem rising_nodup {l : List α} (h : rising code l) : l.Nodup :=
  List.Nodup.of_map code (List.Pairwise.imp Nat.ne_of_lt h)

theorem mem_allFlagAddrs (p : FlagPos) (j : Fin 4) : (p, j) ∈ allFlagAddrs := by
  cases p <;> fin_cases j <;> decide

/-- `tableIds` holds exactly what is picked at some address. -/
theorem mem_tableIds (hc : Function.Injective code) (pick : FlagPos × Fin 4 → Option α) (x : α) :
    x ∈ tableIds code pick ↔ ∃ p j, pick (p, j) = some x := by
  simp only [tableIds, mem_foldr_setInsert hc, List.mem_filterMap, Prod.exists]
  exact ⟨fun ⟨p, j, _, h⟩ => ⟨p, j, h⟩, fun ⟨p, j, h⟩ => ⟨p, j, mem_allFlagAddrs p j, h⟩⟩

theorem tableIds_nodup (pick : FlagPos × Fin 4 → Option α) : (tableIds code pick).Nodup :=
  rising_nodup (rising_foldr_setInsert _)

/-- Bit `k` of a set's hardware form is set exactly when the `k`-th identity is in the set (R212). -/
theorem getLsbD_memberBits [DecidableEq α] (set ids : List α) (k : Nat) (h : k < ids.length) :
    (memberBits set ids).getLsbD k = true ↔ ids[k] ∈ set := by
  induction ids generalizing k with
  | nil => simp at h
  | cons x xs ih =>
    cases k with
    | zero => simp [memberBits]
    | succ k =>
      simp only [memberBits, BitVec.getLsbD_concat, Nat.succ_ne_zero, if_false, Nat.add_sub_cancel,
        List.getElem_cons_succ]
      exact ih k (by simpa using h)

theorem empty_canonical : FlagSet.empty.Canonical := by
  constructor <;> simp [FlagSet.empty, rising]

/-- One flag keeps the FlagSet's form. -/
theorem addFlag_canonical (c : Config) (p : FlagPos) (j : Fin 4) {fs : FlagSet} (h : fs.Canonical) :
    (addFlag c p j fs).Canonical := by
  obtain ⟨h1, h2, h3, h4, h5⟩ := h
  unfold addFlag addEntry
  split
  · exact ⟨rising_setInsert _ h1, h2, h3, h4, h5⟩
  · exact ⟨h1, rising_setInsert _ h2, h3, h4, h5⟩
  · exact ⟨h1, h2, rising_setInsert _ h3, h4, h5⟩
  · exact ⟨h1, h2, h3, rising_setInsert _ h4, h5⟩
  · exact ⟨h1, h2, h3, h4, rising_setInsert _ h5⟩

theorem matchBit_canonical (c : Config) (p : FlagPos) (n : Nibble) (j : Fin 4) {fs : FlagSet}
    (h : fs.Canonical) : (matchBit c p n j fs).Canonical := by
  unfold matchBit
  split
  · exact addFlag_canonical c p j h
  · exact h

/-- One flag byte keeps the FlagSet's form. -/
theorem matchNibble_canonical (c : Config) (p : FlagPos) (n : Nibble) {fs : FlagSet}
    (h : fs.Canonical) : (matchNibble c p n fs).Canonical :=
  matchBit_canonical c p n 0 <| matchBit_canonical c p n 1 <| matchBit_canonical c p n 2 <|
    matchBit_canonical c p n 3 h

/-- A frame's FlagSet is in its form. -/
theorem frameFlags_canonical (c : Config) (F : Frame) : (frameFlags c F).Canonical := by
  unfold frameFlags
  exact matchNibble_canonical c _ _ <| matchNibble_canonical c _ _ <| matchNibble_canonical c _ _ <|
    matchNibble_canonical c _ _ <| matchNibble_canonical c _ _ <| matchNibble_canonical c _ _ empty_canonical

theorem scaleCode_injective : Function.Injective scaleCode := by
  intro x y h
  cases x <;> cases y <;> first | rfl | cases h

theorem unitCode_injective : Function.Injective unitCode := by
  intro x y h
  cases x <;> cases y <;> simp only [unitCode] at h <;> first | rfl | (congr 1; omega)

theorem submodeCode_injective : Function.Injective submodeCode := by
  intro x y h
  cases x <;> cases y <;> first | rfl | cases h

theorem modeCode_injective : Function.Injective modeCode := by
  intro x y h
  cases x <;> cases y <;> simp only [modeCode] at h <;> first | rfl | (congr 1; omega)

theorem reservedCode_injective : Function.Injective reservedCode := by
  rintro ⟨p, i⟩ ⟨q, j⟩ h
  have h2 := i.isLt
  have h3 := j.isLt
  cases p <;> cases q <;> simp only [reservedCode, rawIndex, posIndex] at h <;>
    first | omega | (congr 1; apply Fin.ext; omega)

/-- One flag adds exactly its identity (R202). -/
theorem has_addFlag (c : Config) (p : FlagPos) (j : Fin 4) (fs : FlagSet) (x : FlagId) :
    (addFlag c p j fs).has x ↔ fs.has x ∨ x = identityAt (c.flagTable p j) p j := by
  unfold addFlag addEntry
  cases c.flagTable p j <;> cases x <;>
    simp [FlagSet.has, identityAt, mem_setInsert scaleCode_injective, mem_setInsert unitCode_injective,
      mem_setInsert submodeCode_injective, mem_setInsert modeCode_injective,
      mem_setInsert reservedCode_injective, or_comm]

theorem has_matchBit (c : Config) (p : FlagPos) (n : Nibble) (j : Fin 4) (fs : FlagSet) (x : FlagId) :
    (matchBit c p n j fs).has x ↔
      fs.has x ∨ n.getLsbD j.val = true ∧ x = identityAt (c.flagTable p j) p j := by
  unfold matchBit
  split <;> simp_all [has_addFlag]

/-- One flag byte adds exactly the identities of its set bits (R202). -/
theorem has_matchNibble (c : Config) (p : FlagPos) (n : Nibble) (fs : FlagSet) (x : FlagId) :
    (matchNibble c p n fs).has x ↔
      fs.has x ∨ ∃ j : Fin 4, n.getLsbD j.val = true ∧ x = identityAt (c.flagTable p j) p j := by
  simp only [matchNibble, has_matchBit, Fin.exists_fin_succ, Fin.exists_fin_zero]
  simp only [or_assoc, or_false]
  tauto

@[simp] theorem addFlag_rawFlags (c : Config) (p : FlagPos) (j : Fin 4) (fs : FlagSet) :
    (addFlag c p j fs).rawFlags = fs.rawFlags ||| BitVec.twoPow 24 (rawIndex p j) := rfl

/-- One flag byte adds its nibble to the raw flags (R212). -/
theorem matchNibble_rawFlags (c : Config) (p : FlagPos) (n : Nibble) (fs : FlagSet) :
    (matchNibble c p n fs).rawFlags = fs.rawFlags ||| (n.zeroExtend 24 <<< (4 * posIndex p)) := by
  have bit : ∀ (j : Fin 4) (gs : FlagSet), (matchBit c p n j gs).rawFlags =
      gs.rawFlags ||| (if n.getLsbD j.val then BitVec.twoPow 24 (rawIndex p j) else 0#24) := by
    intro j gs
    unfold matchBit
    split <;> simp
  have all : ∀ (q : FlagPos) (m : Fin 16),
      (((if (BitVec.ofFin m : Nibble).getLsbD 3 then BitVec.twoPow 24 (rawIndex q 3) else 0#24) |||
        (if (BitVec.ofFin m : Nibble).getLsbD 2 then BitVec.twoPow 24 (rawIndex q 2) else 0#24)) |||
        (if (BitVec.ofFin m : Nibble).getLsbD 1 then BitVec.twoPow 24 (rawIndex q 1) else 0#24)) |||
        (if (BitVec.ofFin m : Nibble).getLsbD 0 then BitVec.twoPow 24 (rawIndex q 0) else 0#24) =
      (BitVec.ofFin m : Nibble).zeroExtend 24 <<< (4 * posIndex q) := by
    intro q
    cases q <;> decide
  rw [← all p n.toFin]
  simp only [matchNibble, bit, BitVec.or_assoc]
  rfl

end Sys2Proof.Machine
end

