-- ==== Sys2Proof/Laws/State.lean ====
section
/-! SUPPORT. One lemma per field of State and per named update of Machine/Ops.lean, each true by rfl, so that no
later proof unfolds a record update. -/

namespace Sys2Proof.Machine

@[simp] theorem ignored_phase (s : State) : (ignored s).phase = s.phase := rfl
@[simp] theorem ignored_expect (s : State) : (ignored s).expect = s.expect := rfl
@[simp] theorem ignored_cur (s : State) : (ignored s).cur = s.cur := rfl
@[simp] theorem ignored_discards (s : State) : (ignored s).discards = s.discards := rfl
@[simp] theorem ignored_maxAtt (s : State) : (ignored s).maxAtt = s.maxAtt := rfl
@[simp] theorem ignored_result (s : State) : (ignored s).result = s.result := rfl
@[simp] theorem ignored_outFrame (s : State) : (ignored s).outFrame = s.outFrame := rfl
@[simp] theorem ignored_outCount (s : State) : (ignored s).outCount = s.outCount := rfl
@[simp] theorem ignored_input (s : State) : (ignored s).input = s.input := rfl
@[simp] theorem ignored_config (s : State) : (ignored s).config = s.config := rfl
@[simp] theorem ignored_answer (s : State) : (ignored s).answer = .accepted none := rfl
@[simp] theorem ignored_work (s : State) : (ignored s).work = s.work := rfl

@[simp] theorem notEnabled_phase (s : State) : (notEnabled s).phase = s.phase := rfl
@[simp] theorem notEnabled_expect (s : State) : (notEnabled s).expect = s.expect := rfl
@[simp] theorem notEnabled_cur (s : State) : (notEnabled s).cur = s.cur := rfl
@[simp] theorem notEnabled_discards (s : State) : (notEnabled s).discards = s.discards := rfl
@[simp] theorem notEnabled_maxAtt (s : State) : (notEnabled s).maxAtt = s.maxAtt := rfl
@[simp] theorem notEnabled_result (s : State) : (notEnabled s).result = s.result := rfl
@[simp] theorem notEnabled_outFrame (s : State) : (notEnabled s).outFrame = s.outFrame := rfl
@[simp] theorem notEnabled_outCount (s : State) : (notEnabled s).outCount = s.outCount := rfl
@[simp] theorem notEnabled_input (s : State) : (notEnabled s).input = s.input := rfl
@[simp] theorem notEnabled_config (s : State) : (notEnabled s).config = s.config := rfl
@[simp] theorem notEnabled_answer (s : State) : (notEnabled s).answer = .notEnabled := rfl
@[simp] theorem notEnabled_work (s : State) : (notEnabled s).work = s.work := rfl

@[simp] theorem waits_phase (s : State) : (waits s).phase = s.phase := rfl
@[simp] theorem waits_expect (s : State) : (waits s).expect = s.expect := rfl
@[simp] theorem waits_cur (s : State) : (waits s).cur = s.cur := rfl
@[simp] theorem waits_discards (s : State) : (waits s).discards = s.discards := rfl
@[simp] theorem waits_maxAtt (s : State) : (waits s).maxAtt = s.maxAtt := rfl
@[simp] theorem waits_result (s : State) : (waits s).result = s.result := rfl
@[simp] theorem waits_outFrame (s : State) : (waits s).outFrame = s.outFrame := rfl
@[simp] theorem waits_outCount (s : State) : (waits s).outCount = s.outCount := rfl
@[simp] theorem waits_input (s : State) : (waits s).input = s.input := rfl
@[simp] theorem waits_config (s : State) : (waits s).config = s.config := rfl
@[simp] theorem waits_answer (s : State) : (waits s).answer = .idle := rfl
@[simp] theorem waits_work (s : State) : (waits s).work = s.work := rfl

@[simp] theorem resetBlock_phase (s : State) : (resetBlock s).phase = .idle := rfl
@[simp] theorem resetBlock_expect (s : State) : (resetBlock s).expect = 1 := rfl
@[simp] theorem resetBlock_cur (s : State) : (resetBlock s).cur = [] := rfl
@[simp] theorem resetBlock_discards (s : State) : (resetBlock s).discards = 0 := rfl
@[simp] theorem resetBlock_maxAtt (s : State) : (resetBlock s).maxAtt = none := rfl
@[simp] theorem resetBlock_result (s : State) : (resetBlock s).result = .none := rfl
@[simp] theorem resetBlock_outFrame (s : State) : (resetBlock s).outFrame = none := rfl
@[simp] theorem resetBlock_outCount (s : State) : (resetBlock s).outCount = none := rfl
@[simp] theorem resetBlock_input (s : State) : (resetBlock s).input = s.input := rfl
@[simp] theorem resetBlock_config (s : State) : (resetBlock s).config = s.config := rfl
@[simp] theorem resetBlock_answer (s : State) : (resetBlock s).answer = .accepted none := rfl
@[simp] theorem resetBlock_work (s : State) : (resetBlock s).work = DecodeWork.empty := rfl

@[simp] theorem startCapture_phase (m : Nat) (s : State) : (startCapture m s).phase = .hunt := rfl
@[simp] theorem startCapture_expect (m : Nat) (s : State) : (startCapture m s).expect = 1 := rfl
@[simp] theorem startCapture_cur (m : Nat) (s : State) : (startCapture m s).cur = [] := rfl
@[simp] theorem startCapture_discards (m : Nat) (s : State) : (startCapture m s).discards = 0 := rfl
@[simp] theorem startCapture_maxAtt (m : Nat) (s : State) : (startCapture m s).maxAtt = some m := rfl
@[simp] theorem startCapture_result (m : Nat) (s : State) : (startCapture m s).result = .none := rfl
@[simp] theorem startCapture_outFrame (m : Nat) (s : State) : (startCapture m s).outFrame = none := rfl
@[simp] theorem startCapture_outCount (m : Nat) (s : State) : (startCapture m s).outCount = none := rfl
@[simp] theorem startCapture_input (m : Nat) (s : State) : (startCapture m s).input = s.input := rfl
@[simp] theorem startCapture_config (m : Nat) (s : State) : (startCapture m s).config = s.config := rfl
@[simp] theorem startCapture_answer (m : Nat) (s : State) : (startCapture m s).answer = .accepted none := rfl
@[simp] theorem startCapture_work (m : Nat) (s : State) : (startCapture m s).work = DecodeWork.empty := rfl

@[simp] theorem endCapture_phase (r : Result) (s : State) : (endCapture r s).phase = .idle := rfl
@[simp] theorem endCapture_expect (r : Result) (s : State) : (endCapture r s).expect = 1 := rfl
@[simp] theorem endCapture_cur (r : Result) (s : State) : (endCapture r s).cur = [] := rfl
@[simp] theorem endCapture_discards (r : Result) (s : State) : (endCapture r s).discards = 0 := rfl
@[simp] theorem endCapture_maxAtt (r : Result) (s : State) : (endCapture r s).maxAtt = s.maxAtt := rfl
@[simp] theorem endCapture_result (r : Result) (s : State) : (endCapture r s).result = r := rfl
@[simp] theorem endCapture_outFrame (r : Result) (s : State) : (endCapture r s).outFrame = s.outFrame := rfl
@[simp] theorem endCapture_outCount (r : Result) (s : State) : (endCapture r s).outCount = some s.discards := rfl
@[simp] theorem endCapture_input (r : Result) (s : State) : (endCapture r s).input = s.input := rfl
@[simp] theorem endCapture_config (r : Result) (s : State) : (endCapture r s).config = s.config := rfl
@[simp] theorem endCapture_answer (r : Result) (s : State) : (endCapture r s).answer = s.answer := rfl
@[simp] theorem endCapture_work (r : Result) (s : State) : (endCapture r s).work = s.work := rfl

@[simp] theorem raiseExc_phase (e : Exc) (s : State) : (raiseExc e s).phase = .idle := rfl
@[simp] theorem raiseExc_expect (e : Exc) (s : State) : (raiseExc e s).expect = 1 := rfl
@[simp] theorem raiseExc_cur (e : Exc) (s : State) : (raiseExc e s).cur = [] := rfl
@[simp] theorem raiseExc_discards (e : Exc) (s : State) : (raiseExc e s).discards = 0 := rfl
@[simp] theorem raiseExc_maxAtt (e : Exc) (s : State) : (raiseExc e s).maxAtt = s.maxAtt := rfl
@[simp] theorem raiseExc_result (e : Exc) (s : State) : (raiseExc e s).result = e.code := rfl
@[simp] theorem raiseExc_outFrame (e : Exc) (s : State) : (raiseExc e s).outFrame = s.outFrame := rfl
@[simp] theorem raiseExc_outCount (e : Exc) (s : State) : (raiseExc e s).outCount = some s.discards := rfl
@[simp] theorem raiseExc_input (e : Exc) (s : State) : (raiseExc e s).input = s.input := rfl
@[simp] theorem raiseExc_config (e : Exc) (s : State) : (raiseExc e s).config = s.config := rfl
@[simp] theorem raiseExc_answer (e : Exc) (s : State) : (raiseExc e s).answer = .accepted (some (e.outcome s.discards)) := rfl
@[simp] theorem raiseExc_work (e : Exc) (s : State) : (raiseExc e s).work = s.work := rfl

@[simp] theorem append_phase (b : Byte) (s : State) : (append b s).phase = s.phase := rfl
@[simp] theorem append_expect (b : Byte) (s : State) : (append b s).expect = s.expect := rfl
@[simp] theorem append_cur (b : Byte) (s : State) : (append b s).cur = s.cur ++ [b] := rfl
@[simp] theorem append_discards (b : Byte) (s : State) : (append b s).discards = s.discards := rfl
@[simp] theorem append_maxAtt (b : Byte) (s : State) : (append b s).maxAtt = s.maxAtt := rfl
@[simp] theorem append_result (b : Byte) (s : State) : (append b s).result = s.result := rfl
@[simp] theorem append_outFrame (b : Byte) (s : State) : (append b s).outFrame = s.outFrame := rfl
@[simp] theorem append_outCount (b : Byte) (s : State) : (append b s).outCount = s.outCount := rfl
@[simp] theorem append_input (b : Byte) (s : State) : (append b s).input = s.input := rfl
@[simp] theorem append_config (b : Byte) (s : State) : (append b s).config = s.config := rfl
@[simp] theorem append_answer (b : Byte) (s : State) : (append b s).answer = s.answer := rfl
@[simp] theorem append_work (b : Byte) (s : State) : (append b s).work = s.work := rfl

@[simp] theorem accept_phase (b : Byte) (s : State) : (accept b s).phase = s.phase := rfl
@[simp] theorem accept_expect (b : Byte) (s : State) : (accept b s).expect = s.expect + 1 := rfl
@[simp] theorem accept_cur (b : Byte) (s : State) : (accept b s).cur = s.cur ++ [b] := rfl
@[simp] theorem accept_discards (b : Byte) (s : State) : (accept b s).discards = s.discards := rfl
@[simp] theorem accept_maxAtt (b : Byte) (s : State) : (accept b s).maxAtt = s.maxAtt := rfl
@[simp] theorem accept_result (b : Byte) (s : State) : (accept b s).result = s.result := rfl
@[simp] theorem accept_outFrame (b : Byte) (s : State) : (accept b s).outFrame = s.outFrame := rfl
@[simp] theorem accept_outCount (b : Byte) (s : State) : (accept b s).outCount = s.outCount := rfl
@[simp] theorem accept_input (b : Byte) (s : State) : (accept b s).input = s.input := rfl
@[simp] theorem accept_config (b : Byte) (s : State) : (accept b s).config = s.config := rfl
@[simp] theorem accept_answer (b : Byte) (s : State) : (accept b s).answer = .accepted none := rfl
@[simp] theorem accept_work (b : Byte) (s : State) : (accept b s).work = s.work := rfl

@[simp] theorem discard_phase (s : State) : (discard s).phase = s.phase := rfl
@[simp] theorem discard_expect (s : State) : (discard s).expect = s.expect := rfl
@[simp] theorem discard_cur (s : State) : (discard s).cur = [] := rfl
@[simp] theorem discard_discards (s : State) : (discard s).discards = s.discards + 1 := rfl
@[simp] theorem discard_maxAtt (s : State) : (discard s).maxAtt = s.maxAtt := rfl
@[simp] theorem discard_result (s : State) : (discard s).result = s.result := rfl
@[simp] theorem discard_outFrame (s : State) : (discard s).outFrame = s.outFrame := rfl
@[simp] theorem discard_outCount (s : State) : (discard s).outCount = s.outCount := rfl
@[simp] theorem discard_input (s : State) : (discard s).input = s.input := rfl
@[simp] theorem discard_config (s : State) : (discard s).config = s.config := rfl
@[simp] theorem discard_answer (s : State) : (discard s).answer = s.answer := rfl
@[simp] theorem discard_work (s : State) : (discard s).work = s.work := rfl

@[simp] theorem setWork_phase (w : DecodeWork) (s : State) : (setWork w s).phase = s.phase := rfl
@[simp] theorem setWork_expect (w : DecodeWork) (s : State) : (setWork w s).expect = s.expect := rfl
@[simp] theorem setWork_cur (w : DecodeWork) (s : State) : (setWork w s).cur = s.cur := rfl
@[simp] theorem setWork_discards (w : DecodeWork) (s : State) : (setWork w s).discards = s.discards := rfl
@[simp] theorem setWork_maxAtt (w : DecodeWork) (s : State) : (setWork w s).maxAtt = s.maxAtt := rfl
@[simp] theorem setWork_result (w : DecodeWork) (s : State) : (setWork w s).result = s.result := rfl
@[simp] theorem setWork_outFrame (w : DecodeWork) (s : State) : (setWork w s).outFrame = s.outFrame := rfl
@[simp] theorem setWork_outCount (w : DecodeWork) (s : State) : (setWork w s).outCount = s.outCount := rfl
@[simp] theorem setWork_input (w : DecodeWork) (s : State) : (setWork w s).input = s.input := rfl
@[simp] theorem setWork_config (w : DecodeWork) (s : State) : (setWork w s).config = s.config := rfl
@[simp] theorem setWork_answer (w : DecodeWork) (s : State) : (setWork w s).answer = .accepted none := rfl
@[simp] theorem setWork_work (w : DecodeWork) (s : State) : (setWork w s).work = w := rfl

@[simp] theorem offerFirst_phase (pw : PortWord) (s : State) : (offerFirst pw s).phase = s.phase := rfl
@[simp] theorem offerFirst_expect (pw : PortWord) (s : State) : (offerFirst pw s).expect = s.expect := rfl
@[simp] theorem offerFirst_cur (pw : PortWord) (s : State) : (offerFirst pw s).cur = s.cur := rfl
@[simp] theorem offerFirst_discards (pw : PortWord) (s : State) : (offerFirst pw s).discards = s.discards := rfl
@[simp] theorem offerFirst_maxAtt (pw : PortWord) (s : State) : (offerFirst pw s).maxAtt = s.maxAtt := rfl
@[simp] theorem offerFirst_result (pw : PortWord) (s : State) : (offerFirst pw s).result = s.result := rfl
@[simp] theorem offerFirst_outFrame (pw : PortWord) (s : State) : (offerFirst pw s).outFrame = s.outFrame := rfl
@[simp] theorem offerFirst_outCount (pw : PortWord) (s : State) : (offerFirst pw s).outCount = s.outCount := rfl
@[simp] theorem offerFirst_input (pw : PortWord) (s : State) : (offerFirst pw s).input = pw :: s.input := rfl
@[simp] theorem offerFirst_config (pw : PortWord) (s : State) : (offerFirst pw s).config = s.config := rfl
@[simp] theorem offerFirst_answer (pw : PortWord) (s : State) : (offerFirst pw s).answer = s.answer := rfl
@[simp] theorem offerFirst_work (pw : PortWord) (s : State) : (offerFirst pw s).work = s.work := rfl

end Sys2Proof.Machine
end

