-- ==== Sys2Proof/Laws/Ops.lean ====
section
/-! SUPPORT. One lemma per shared operation that says all it can do, and from them the one inversion lemma of
`exec`: a next state is one of the effects of `Effect`. -/

namespace Sys2Proof.Machine

/-- The frame of 14 bytes is the list of them. -/
theorem frameOfList_eq_some {l : List Byte} {F : Frame} : frameOfList l = some F ↔ l = F.toList := by
  constructor
  · intro h
    unfold frameOfList at h
    split at h
    · cases h; rfl
    · cases h
  · rintro rfl
    rfl

@[simp] theorem frameOfList_toList (F : Frame) : frameOfList F.toList = some F :=
  frameOfList_eq_some.mpr rfl

/-- A list of 14 bytes is a frame. -/
theorem frameOfList_of_length {l : List Byte} (h : l.length = 14) : ∃ F, frameOfList l = some F := by
  match l, h with
  | [_, _, _, _, _, _, _, _, _, _, _, _, _, _], _ => exact ⟨_, rfl⟩

/-- `RESTART(b)` with tag 1: the byte is the new candidate's first. -/
theorem restart_candidate {b : Byte} {s : State} (h : tagOf b = 1) :
    restart b s = { append b s with expect := 2, answer := .accepted none } := by
  simp [restart, h]

/-- `RESTART(b)` with another tag: the byte is dropped. -/
theorem restart_skip {b : Byte} {s : State} (h : tagOf b ≠ 1) :
    restart b s = { s with expect := 1, answer := .accepted none } := if_neg h

/-- All that `MISMATCH(b)` can answer with a next state. -/
theorem mismatch_cases {b : Byte} {s t : State} (h : mismatch b s = .next t) :
    ∃ m, s.maxAtt = some m ∧
      ((m ≤ s.discards + 1 ∧ t = raiseExc .syncAttempts (discard s)) ∨
        (s.discards + 1 < m ∧ t = restart b (discard s))) := by
  unfold mismatch at h
  split at h
  · cases h
  · rename_i m hm
    refine ⟨m, hm, ?_⟩
    split at h <;> cases h
    · rename_i hl
      exact .inl ⟨by simpa using hl, rfl⟩
    · rename_i hl
      exact .inr ⟨by simpa using hl, rfl⟩

/-- `MISMATCH(b)` below the limit. -/
theorem mismatch_restart {b : Byte} {s : State} {m : Nat} (hm : s.maxAtt = some m) (hl : s.discards + 1 < m) :
    mismatch b s = .next (restart b (discard s)) := by
  have h : ¬ m ≤ (discard s).discards := by simp; omega
  simp only [mismatch, hm, if_neg h]

/-- `MISMATCH(b)` that reaches the limit. -/
theorem mismatch_exhausts {b : Byte} {s : State} {m : Nat} (hm : s.maxAtt = some m) (hl : m ≤ s.discards + 1) :
    mismatch b s = .next (raiseExc .syncAttempts (discard s)) := by
  have h : m ≤ (discard s).discards := by simpa using hl
  simp only [mismatch, hm, if_pos h]

/-- The state a completed frame leaves (R144). -/
def completed (F : Frame) (s : State) : State :=
  { endCapture .ok s with
    outFrame := some F
    answer := .accepted (some (.frame F s.discards))
    work := DecodeWork.empty }

/-- All that `COMPLETE(b)` can answer with a next state. -/
theorem complete_cases {b : Byte} {s t : State} (h : complete b s = .next t) :
    ∃ F, s.cur ++ [b] = F.toList ∧ t = completed F s := by
  unfold complete at h
  split at h
  · cases h
  · rename_i F hF
    cases h
    exact ⟨F, frameOfList_eq_some.mp hF, rfl⟩

/-- `COMPLETE(b)` on the 14 bytes of a frame. -/
theorem complete_eq {b : Byte} {s : State} {F : Frame} (h : s.cur ++ [b] = F.toList) :
    complete b s = .next (completed F s) := by
  simp only [complete, append_cur, h, frameOfList_toList, completed]

/-- `BYTE(b)` in `HUNT` with the expected tag of an inner position. -/
theorem byteEvent_accepts {b : Byte} {s : State} (hp : s.phase = .hunt) (ht : tagOf b = s.expect)
    (hx : s.expect ≠ 14) : byteEvent b s = .next (accept b s) := by
  simp only [byteEvent, hp, if_pos ht, if_neg hx]

/-- `BYTE(b)` in `HUNT` at position 14. -/
theorem byteEvent_completes {b : Byte} {s : State} (hp : s.phase = .hunt) (ht : tagOf b = s.expect)
    (hx : s.expect = 14) : byteEvent b s = complete b s := by
  simp only [byteEvent, hp, if_pos ht, if_pos hx]

/-- `BYTE(b)` in `HUNT` with another tag. -/
theorem byteEvent_mismatches {b : Byte} {s : State} (hp : s.phase = .hunt) (ht : tagOf b ≠ s.expect) :
    byteEvent b s = mismatch b s := by
  simp only [byteEvent, hp, if_neg ht]

/-- `BYTE(b)` in `IDLE`. -/
theorem byteEvent_idle {b : Byte} {s : State} (hp : s.phase = .idle) :
    byteEvent b s = .next (notEnabled s) := by
  simp only [byteEvent, hp]

/-- A stray byte in `HUNT`. -/
theorem strayByte_hunt {b : Byte} {s : State} (hp : s.phase = .hunt) : strayByte b s = mismatch b s := by
  simp only [strayByte, hp]

/-- A stray byte in `IDLE`. -/
theorem strayByte_idle {b : Byte} {s : State} (hp : s.phase = .idle) :
    strayByte b s = .next (notEnabled s) := by
  simp only [strayByte, hp]

/-- The decoded byte runs the `BYTE` event of R140, but for the two tags that are no position. -/
theorem exec_decodeByte (b : Byte) (s : State) :
    exec (decodeByte b) s = if tagOf b = 0 ∨ tagOf b = 15 then strayByte b s else byteEvent b s := by
  obtain ⟨t, d, rfl⟩ : ∃ t d, b = byteOf t d := ⟨_, _, (byteOf_tag_data b).symm⟩
  have h : ∀ k : Fin 16, ∀ d, exec (decodeByte (byteOf (BitVec.ofFin k) d)) s =
      if tagOf (byteOf (BitVec.ofFin k) d) = 0 ∨ tagOf (byteOf (BitVec.ofFin k) d) = 15
      then strayByte (byteOf (BitVec.ofFin k) d) s else byteEvent (byteOf (BitVec.ofFin k) d) s := by
    intro k d
    rw [tagOf_byteOf]
    fin_cases k <;> simp only [decodeByte, tagOf_byteOf, dataOf_byteOf] <;> rfl
  exact h t.toFin d

/-- How a decode operation changes the FlagSet of the workspace. -/
def FlagsChange (c : Config) (fs fs' : FlagSet) : Prop :=
  fs' = fs ∨ (∃ p b, fs' = matchNibble c p b fs) ∨ ∃ p j, fs' = addFlag c p j fs

/-- The effects an instruction can have, each with the instructions that can have it. -/
inductive Effect (i : Instr) (s : State) : State → Prop
  /-- An event that is not enabled or is ignored: no register changes. -/
  | quiet (a : Answer) (ha : a = .notEnabled ∨ a = .accepted none) : Effect i s { s with answer := a }
  /-- A decode operation: only the workspace changes. -/
  | decoded (w : DecodeWork) (hw : FlagsChange s.config s.work.flags w.flags) : Effect i s (setWork w s)
  | reset (hi : i = .reset) : Effect i s (resetBlock s)
  | start (m : Nat) (hi : i = .start m) (hm : m < 2 ^ s.config.attW) (hp : s.phase = .idle) :
      Effect i s (startCapture m s)
  | timedOut (hi : i = .timeout) (hp : s.phase = .hunt) : Effect i s (raiseExc .syncTime s)
  | failed (hi : i = .xfail) (hp : s.phase = .hunt) : Effect i s (raiseExc .transport s)
  | accepted (b : Byte) (hi : i = decodeByte b) (hp : s.phase = .hunt) (ht : tagOf b = s.expect)
      (hx : s.expect ≠ 14) : Effect i s (accept b s)
  | completes (b : Byte) (F : Frame) (hi : i = decodeByte b) (hp : s.phase = .hunt) (ht : tagOf b = 14)
      (hx : s.expect = 14) (hF : s.cur ++ [b] = F.toList) : Effect i s (completed F s)
  | exhausted (b : Byte) (m : Nat) (hi : i = decodeByte b) (hp : s.phase = .hunt) (hm : s.maxAtt = some m)
      (hl : m ≤ s.discards + 1) : Effect i s (raiseExc .syncAttempts (discard s))
  | restarted (b : Byte) (m : Nat) (hi : i = decodeByte b) (hp : s.phase = .hunt) (hm : s.maxAtt = some m)
      (hl : s.discards + 1 < m) : Effect i s (restart b (discard s))

theorem mismatch_effect {i : Instr} {b : Byte} {s t : State} (hi : i = decodeByte b) (hp : s.phase = .hunt)
    (h : mismatch b s = .next t) : Effect i s t := by
  obtain ⟨m, hm, ⟨hl, rfl⟩ | ⟨hl, rfl⟩⟩ := mismatch_cases h
  · exact .exhausted b m hi hp hm hl
  · exact .restarted b m hi hp hm hl

/-- All that a byte can do. -/
theorem decodeByte_effect {b : Byte} {s t : State} (h : exec (decodeByte b) s = .next t) :
    Effect (decodeByte b) s t := by
  rw [exec_decodeByte] at h
  cases hp : s.phase with
  | idle =>
    have ht : t = notEnabled s := by
      split at h
      · rw [strayByte_idle hp] at h; cases h; rfl
      · rw [byteEvent_idle hp] at h; cases h; rfl
    subst ht
    exact .quiet .notEnabled (.inl rfl)
  | hunt =>
    split at h
    · rw [strayByte_hunt hp] at h
      exact mismatch_effect rfl hp h
    · by_cases ht : tagOf b = s.expect
      · by_cases hx : s.expect = 14
        · rw [byteEvent_completes hp ht hx] at h
          obtain ⟨F, hF, rfl⟩ := complete_cases h
          exact .completes b F rfl hp (ht.trans hx) hx hF
        · rw [byteEvent_accepts hp ht hx] at h
          cases h
          exact .accepted b rfl hp ht hx
      · rw [byteEvent_mismatches hp ht] at h
        exact mismatch_effect rfl hp h

/-- `START(m)` in `IDLE` with an operand that fits. -/
theorem execStart_idle {m : Nat} {s : State} (hm : m < 2 ^ s.config.attW) (hp : s.phase = .idle) :
    execStart m s = .next (startCapture m s) := by
  simp only [execStart, if_pos hm, hp]

/-- `START(m)` in `HUNT` with an operand that fits. -/
theorem execStart_hunt {m : Nat} {s : State} (hm : m < 2 ^ s.config.attW) (hp : s.phase = .hunt) :
    execStart m s = .next (ignored s) := by
  simp only [execStart, if_pos hm, hp]

/-- `START(m)` with an operand that does not fit. -/
theorem execStart_wide {m : Nat} {s : State} (hm : 2 ^ s.config.attW ≤ m) :
    execStart m s = .refused (.operandTooWide m) := by
  simp only [execStart, if_neg (Nat.not_lt.mpr hm)]

theorem start_effect {m : Nat} {s t : State} (h : execStart m s = .next t) : Effect (.start m) s t := by
  unfold execStart at h
  split at h
  · split at h <;> cases h
    · exact .start m rfl ‹_› ‹_›
    · exact .quiet _ (.inr rfl)
  · cases h

theorem asyncEvent_cases {e : Exc} {s t : State} (h : asyncEvent e s = .next t) :
    (s.phase = .hunt ∧ t = raiseExc e s) ∨ t = ignored s := by
  unfold asyncEvent at h
  split at h <;> cases h
  · exact .inr rfl
  · exact .inl ⟨‹_›, rfl⟩

/-- The inversion lemma: whatever instruction answers a next state, the state is one of its effects. -/
theorem exec_effect {i : Instr} {s t : State} (h : exec i s = .next t) : Effect i s t := by
  cases i
  case start m => exact start_effect h
  case timeout =>
    obtain ⟨hp, rfl⟩ | rfl := asyncEvent_cases h
    · exact .timedOut rfl hp
    · exact .quiet _ (.inr rfl)
  case xfail =>
    obtain ⟨hp, rfl⟩ | rfl := asyncEvent_cases h
    · exact .failed rfl hp
    · exact .quiet _ (.inr rfl)
  case reset =>
    cases h
    exact .reset rfl
  case tag0 d =>
    have hi : Instr.tag0 d = decodeByte (byteOf 0 d) := by simp [decodeByte]
    rw [hi] at h ⊢
    exact decodeByte_effect h
  case pos1 d =>
    have hi : Instr.pos1 d = decodeByte (byteOf 1 d) := by simp [decodeByte]
    rw [hi] at h ⊢
    exact decodeByte_effect h
  case pos2 d =>
    have hi : Instr.pos2 d = decodeByte (byteOf 2 d) := by simp [decodeByte]
    rw [hi] at h ⊢
    exact decodeByte_effect h
  case pos3 d =>
    have hi : Instr.pos3 d = decodeByte (byteOf 3 d) := by simp [decodeByte]
    rw [hi] at h ⊢
    exact decodeByte_effect h
  case pos4 d =>
    have hi : Instr.pos4 d = decodeByte (byteOf 4 d) := by simp [decodeByte]
    rw [hi] at h ⊢
    exact decodeByte_effect h
  case pos5 d =>
    have hi : Instr.pos5 d = decodeByte (byteOf 5 d) := by simp [decodeByte]
    rw [hi] at h ⊢
    exact decodeByte_effect h
  case pos6 d =>
    have hi : Instr.pos6 d = decodeByte (byteOf 6 d) := by simp [decodeByte]
    rw [hi] at h ⊢
    exact decodeByte_effect h
  case pos7 d =>
    have hi : Instr.pos7 d = decodeByte (byteOf 7 d) := by simp [decodeByte]
    rw [hi] at h ⊢
    exact decodeByte_effect h
  case pos8 d =>
    have hi : Instr.pos8 d = decodeByte (byteOf 8 d) := by simp [decodeByte]
    rw [hi] at h ⊢
    exact decodeByte_effect h
  case pos9 d =>
    have hi : Instr.pos9 d = decodeByte (byteOf 9 d) := by simp [decodeByte]
    rw [hi] at h ⊢
    exact decodeByte_effect h
  case pos10 d =>
    have hi : Instr.pos10 d = decodeByte (byteOf 10 d) := by simp [decodeByte]
    rw [hi] at h ⊢
    exact decodeByte_effect h
  case pos11 d =>
    have hi : Instr.pos11 d = decodeByte (byteOf 11 d) := by simp [decodeByte]
    rw [hi] at h ⊢
    exact decodeByte_effect h
  case pos12 d =>
    have hi : Instr.pos12 d = decodeByte (byteOf 12 d) := by simp [decodeByte]
    rw [hi] at h ⊢
    exact decodeByte_effect h
  case pos13 d =>
    have hi : Instr.pos13 d = decodeByte (byteOf 13 d) := by simp [decodeByte]
    rw [hi] at h ⊢
    exact decodeByte_effect h
  case pos14 d =>
    have hi : Instr.pos14 d = decodeByte (byteOf 14 d) := by simp [decodeByte]
    rw [hi] at h ⊢
    exact decodeByte_effect h
  case tag15 d =>
    have hi : Instr.tag15 d = decodeByte (byteOf 15 d) := by simp [decodeByte]
    rw [hi] at h ⊢
    exact decodeByte_effect h
  case slot1 fb key => cases h; exact .decoded _ (.inl rfl)
  case slot2 fb key => cases h; exact .decoded _ (.inl rfl)
  case slot3 fb key => cases h; exact .decoded _ (.inl rfl)
  case slot4 fb key => cases h; exact .decoded _ (.inl rfl)
  case flags1 b => cases h; exact .decoded _ (.inr (.inl ⟨_, _, rfl⟩))
  case flags10 b => cases h; exact .decoded _ (.inr (.inl ⟨_, _, rfl⟩))
  case flags11 b => cases h; exact .decoded _ (.inr (.inl ⟨_, _, rfl⟩))
  case flags12 b => cases h; exact .decoded _ (.inr (.inl ⟨_, _, rfl⟩))
  case flags13 b => cases h; exact .decoded _ (.inr (.inl ⟨_, _, rfl⟩))
  case flags14 b => cases h; exact .decoded _ (.inr (.inl ⟨_, _, rfl⟩))
  all_goals
    cases h
    first
      | exact .decoded _ (.inl rfl)
      | exact .decoded _ (.inr (.inr ⟨_, _, rfl⟩))

/-- All that a word outside the opcode table does: it waits, or it changes the workspace. -/
theorem runUnlisted_cases (e : DecodeError) (s : State) :
    runUnlisted e s = .next (waits s) ∨
      ∃ w, FlagsChange s.config s.work.flags w.flags ∧ runUnlisted e s = .next (setWork w s) := by
  cases e with
  | pinLow => exact .inl rfl
  | unmappedKey k => exact .inr ⟨{ s.work with seg := some (k, segRead s.config k) }, .inl rfl, rfl⟩
  | notOneFlagBit p w =>
    exact .inr ⟨{ s.work with flags := matchNibble s.config p w s.work.flags }, .inr (.inl ⟨p, w, rfl⟩), rfl⟩

/-- All that a step can do: wait, run the instruction that the next offered word decodes to, or do what a
word outside the opcode table does. -/
theorem step_cases {s t : State} (h : step s = .next t) :
    (s.input = [] ∧ t = waits s) ∨
      (∃ w rest i, s.input = w :: rest ∧ decode w = .ok i ∧ exec i { s with input := rest } = .next t) ∨
        ∃ w rest e, s.input = w :: rest ∧ decode w = .error e ∧ runUnlisted e { s with input := rest } = .next t := by
  unfold step fetch at h
  cases hs : s.input with
  | nil =>
    simp only [hs] at h
    cases h
    exact .inl ⟨rfl, rfl⟩
  | cons w rest =>
    simp only [hs, runWord] at h
    split at h
    · exact .inr (.inl ⟨w, rest, _, rfl, ‹_›, h⟩)
    · exact .inr (.inr ⟨w, rest, _, rfl, ‹_›, h⟩)

end Sys2Proof.Machine
end

