-- ==== Sys2Proof/Laws/PerInstr.lean ====
section
/-! SUPPORT. The family `RoundTrip`, one lemma per constructor of Instr: the decoder reads an encoded instruction
back as itself (spec/30_encoding.md R81, R84, R88, R98). -/

namespace Sys2Proof.Laws.RoundTrip

/-- Decoding the encoding of an instruction gives the instruction. -/
def Statement (i : Instr) : Prop := decode (encode i) = .ok i

theorem tag0 (d : Nibble) : Statement (.tag0 d) := by simp [Statement, encode, decodeByte]
theorem pos1 (d : Nibble) : Statement (.pos1 d) := by simp [Statement, encode, decodeByte]
theorem pos2 (d : Nibble) : Statement (.pos2 d) := by simp [Statement, encode, decodeByte]
theorem pos3 (d : Nibble) : Statement (.pos3 d) := by simp [Statement, encode, decodeByte]
theorem pos4 (d : Nibble) : Statement (.pos4 d) := by simp [Statement, encode, decodeByte]
theorem pos5 (d : Nibble) : Statement (.pos5 d) := by simp [Statement, encode, decodeByte]
theorem pos6 (d : Nibble) : Statement (.pos6 d) := by simp [Statement, encode, decodeByte]
theorem pos7 (d : Nibble) : Statement (.pos7 d) := by simp [Statement, encode, decodeByte]
theorem pos8 (d : Nibble) : Statement (.pos8 d) := by simp [Statement, encode, decodeByte]
theorem pos9 (d : Nibble) : Statement (.pos9 d) := by simp [Statement, encode, decodeByte]
theorem pos10 (d : Nibble) : Statement (.pos10 d) := by simp [Statement, encode, decodeByte]
theorem pos11 (d : Nibble) : Statement (.pos11 d) := by simp [Statement, encode, decodeByte]
theorem pos12 (d : Nibble) : Statement (.pos12 d) := by simp [Statement, encode, decodeByte]
theorem pos13 (d : Nibble) : Statement (.pos13 d) := by simp [Statement, encode, decodeByte]
theorem pos14 (d : Nibble) : Statement (.pos14 d) := by simp [Statement, encode, decodeByte]
theorem tag15 (d : Nibble) : Statement (.tag15 d) := by simp [Statement, encode, decodeByte]
theorem start (m : Nat) : Statement (.start m) := by
  simp only [Statement, encode]
  split
  · rename_i h
    simp [decode, decodeInputWord, Nat.mod_eq_of_lt h]
  · rfl
theorem timeout : Statement .timeout := rfl
theorem xfail : Statement .xfail := rfl
theorem reset : Statement .reset := rfl
theorem slot1 (fb : Bool) (key : SegKey) : Statement (.slot1 fb key) := by simp [Statement, encode, decode, decodeSlotWord]
theorem slot2 (fb : Bool) (key : SegKey) : Statement (.slot2 fb key) := by simp [Statement, encode, decode, decodeSlotWord]
theorem slot3 (fb : Bool) (key : SegKey) : Statement (.slot3 fb key) := by simp [Statement, encode, decode, decodeSlotWord]
theorem slot4 (fb : Bool) (key : SegKey) : Statement (.slot4 fb key) := by simp [Statement, encode, decode, decodeSlotWord]
theorem flags1 (b : Nibble) : Statement (.flags1 b) := rfl
theorem flags10 (b : Nibble) : Statement (.flags10 b) := rfl
theorem flags11 (b : Nibble) : Statement (.flags11 b) := rfl
theorem flags12 (b : Nibble) : Statement (.flags12 b) := rfl
theorem flags13 (b : Nibble) : Statement (.flags13 b) := rfl
theorem flags14 (b : Nibble) : Statement (.flags14 b) := rfl
theorem seg0 : Statement .seg0 := rfl
theorem seg1 : Statement .seg1 := rfl
theorem seg2 : Statement .seg2 := rfl
theorem seg3 : Statement .seg3 := rfl
theorem seg4 : Statement .seg4 := rfl
theorem seg5 : Statement .seg5 := rfl
theorem seg6 : Statement .seg6 := rfl
theorem seg7 : Statement .seg7 := rfl
theorem seg8 : Statement .seg8 := rfl
theorem seg9 : Statement .seg9 := rfl
theorem segBlank : Statement .segBlank := rfl
theorem segL : Statement .segL := rfl
theorem flagAc : Statement .flagAc := rfl
theorem flagDc : Statement .flagDc := rfl
theorem flagAutoRange : Statement .flagAutoRange := rfl
theorem flagRs232 : Statement .flagRs232 := rfl
theorem flagMicro : Statement .flagMicro := rfl
theorem flagNano : Statement .flagNano := rfl
theorem flagKilo : Statement .flagKilo := rfl
theorem flagDiode : Statement .flagDiode := rfl
theorem flagMilli : Statement .flagMilli := rfl
theorem flagPercent : Statement .flagPercent := rfl
theorem flagMega : Statement .flagMega := rfl
theorem flagContinuity : Statement .flagContinuity := rfl
theorem flagFarads : Statement .flagFarads := rfl
theorem flagOhms : Statement .flagOhms := rfl
theorem flagDelta : Statement .flagDelta := rfl
theorem flagHold : Statement .flagHold := rfl
theorem flagAmps : Statement .flagAmps := rfl
theorem flagVolts : Statement .flagVolts := rfl
theorem flagHertz : Statement .flagHertz := rfl
theorem flagBatteryLow : Statement .flagBatteryLow := rfl
theorem flagRsv14_3 : Statement .flagRsv14_3 := rfl
theorem flagRsv14_2 : Statement .flagRsv14_2 := rfl
theorem flagRsv14_1 : Statement .flagRsv14_1 := rfl
theorem flagRsv14_0 : Statement .flagRsv14_0 := rfl

end Sys2Proof.Laws.RoundTrip
end

