-- ==== Sys2Proof/Tests/Slice0.lean ====
section
/-! SUPPORT. The model's own tests: well-formedness refusals, decoding of words written out from the spec's encodings,
one-step tests with expected results taken from spec/95_test_vectors.md (each names its vector), and one
witness for the hypotheses of every statement that has any. -/

namespace Sys2Proof.Tests

open Sys2Proof.Machine

/-- A state in `HUNT`. -/
def hunting (e : Nibble) (cur : List Byte) (d m : Nat) : State :=
  { State.reset with
    phase := .hunt
    expect := e
    cur := cur
    discards := d
    maxAtt := some m }

/-- A state in `IDLE` after a capture. -/
def ended (r : Result) (m : Nat) (F : Option Frame) (n : Nat) : State :=
  { State.reset with
    maxAtt := some m
    result := r
    outFrame := F
    outCount := some n }

/-- The registers of a next state. -/
def regsOf : StepResult → Option Registers
  | .next s => some s.registers
  | .fault _ => none
  | .refused _ => none

/-- The answer of a next state. -/
def answerOf : StepResult → Option Answer
  | .next s => some s.answer
  | .fault _ => none
  | .refused _ => none

/-- The workspace of a next state. -/
def workOf : StepResult → Option DecodeWork
  | .next s => some s.work
  | .fault _ => none
  | .refused _ => none

/-- Frames of spec/95_test_vectors.md section 2.6, byte by byte. -/
def F1 : Frame := ⟨0x14, 0x2A, 0x37, 0x4B, 0x5F, 0x67, 0x7D, 0x87, 0x9D, 0xA0, 0xB8, 0xC0, 0xD4, 0xE0⟩
def F2 : Frame := ⟨0x10, 0x27, 0x3D, 0x48, 0x55, 0x65, 0x7B, 0x81, 0x9F, 0xA0, 0xB0, 0xC0, 0xD0, 0xE0⟩
def F2n : Frame := { F2 with f2 := 0x2F }
def F3 : Frame := { F2 with f6 := 0x6D }
def F4 : Frame := ⟨0x12, 0x20, 0x30, 0x47, 0x5D, 0x66, 0x78, 0x80, 0x90, 0xA0, 0xB2, 0xC4, 0xD0, 0xE0⟩
def F5 : Frame := ⟨0x18, 0x20, 0x35, 0x41, 0x51, 0x69, 0x7F, 0x82, 0x97, 0xA0, 0xB0, 0xC0, 0xD4, 0xE0⟩
def F6 : Frame := ⟨0x10, 0x20, 0x35, 0x45, 0x5B, 0x61, 0x7F, 0x82, 0x97, 0xA2, 0xB8, 0xC3, 0xDD, 0xE4⟩
def F7 : Frame := ⟨0x10, 0x2F, 0x3D, 0x47, 0x5D, 0x67, 0x7D, 0x8F, 0x9D, 0xA0, 0xB0, 0xC0, 0xD2, 0xE0⟩
def F8 : Frame := ⟨0x10, 0x23, 0x3F, 0x43, 0x5F, 0x63, 0x7F, 0x83, 0x9F, 0xA0, 0xB2, 0xC4, 0xD0, 0xE0⟩
def F9 : Frame := ⟨0x10, 0x27, 0x3D, 0x4F, 0x5D, 0x67, 0x7D, 0x80, 0x95, 0xA4, 0xB0, 0xC8, 0xD0, 0xE0⟩
def F10 : Frame := ⟨0x14, 0x27, 0x3D, 0x4B, 0x5E, 0x60, 0x75, 0x85, 0x9B, 0xA1, 0xB0, 0xC0, 0xD4, 0xE0⟩
def F11 : Frame := ⟨0x1C, 0x20, 0x35, 0x4D, 0x5B, 0x69, 0x7F, 0x8A, 0x97, 0xA0, 0xB0, 0xC0, 0xD4, 0xE0⟩
def Fz : Frame := ⟨0x10, 0x20, 0x30, 0x40, 0x50, 0x60, 0x70, 0x80, 0x90, 0xA0, 0xB0, 0xC0, 0xD0, 0xE0⟩
def Ff : Frame := ⟨0x1F, 0x2F, 0x3F, 0x4F, 0x5F, 0x6F, 0x7F, 0x8F, 0x9F, 0xAF, 0xBF, 0xCF, 0xDF, 0xEF⟩

/-- The Reading of a frame under the machine's tables. -/
def reading (F : Frame) : Reading := readingOf referenceConfig F 0

/-! Well-formedness: each check refuses an ill-formed term. -/

/-- R6: with a 4-bit counter `START(16)` is ill-formed, `START(15)` is not. -/
theorem test_wf_start_width :
    (Instr.start 16).wf { referenceConfig with attW := 4 } = false ∧
      (Instr.start 15).wf { referenceConfig with attW := 4 } = true := by decide

/-- R24: a counter without a bit is refused. -/
theorem test_wf_no_counter_bit :
    { referenceConfig with attW := 0 }.widthOk = false ∧ { referenceConfig with attW := 1 }.widthOk = true := by decide

/-- R174 item 2: a key with two entries is refused. -/
theorem test_wf_key_twice :
    { referenceConfig with segRows := segRowsRef.dropLast ++ [(0x00, DisplayChar.el)] }.segOk = false := by
  decide

/-- R174 item 3: a second key for '0' is refused. -/
theorem test_wf_two_keys_for_a_character :
    { referenceConfig with segRows := (0x11, .digit 0) :: segRowsRef }.segOk = false := by decide

/-- R174 item 3: a character without a key is refused. -/
theorem test_wf_no_key_for_a_character :
    { referenceConfig with segRows := segRowsRef.dropLast }.segOk = false := by decide

/-- R203 item 2: a table without `VOLTS` is refused. -/
theorem test_wf_named_identity_missing :
    { referenceConfig with
      flagRows := { flagRowsRef with
        p13 := ⟨.unit .amps, .unit (.other 0), .unit .hertz, .mode .batteryLow⟩ } }.namedOk = false := by decide

/-- R203 item 3: three reserved addresses are refused. -/
theorem test_wf_three_reserved :
    { referenceConfig with
      flagRows := { flagRowsRef with
        p14 := ⟨.unit (.other 0), .reserved, .reserved, .reserved⟩ } }.reservedOk = false := by decide

/-- R203 item 4: `PERCENT` at two addresses is refused. -/
theorem test_wf_identity_twice :
    { referenceConfig with
      flagRows := { flagRowsRef with
        p1 := ⟨.submode .ac, .submode .dc, .mode .autoRange, .unit .percent⟩ } }.distinctOk = false := by decide

/-- R27: a frame with two bytes exchanged is not correctly tagged. -/
theorem test_wf_frame_tags : ¬ ({ F1 with f4 := F1.f5, f5 := F1.f4 } : Frame).tagged ∧ F1.tagged := by decide

/-! Decoding: words written out bit by bit from R80, R81, R84, R88, R98, R175, R204. -/

/-- The bytes of F1 and the two stray bytes of V-B19, V-B20 as input words of kind 00. -/
theorem test_decode_bytes :
    decode (.iw 0b0000010100) = .ok (.pos1 0x4) ∧
      decode (.iw 0b0000101010) = .ok (.pos2 0xa) ∧
      decode (.iw 0b0000110111) = .ok (.pos3 0x7) ∧
      decode (.iw 0b0001001011) = .ok (.pos4 0xb) ∧
      decode (.iw 0b0001011111) = .ok (.pos5 0xf) ∧
      decode (.iw 0b0001100111) = .ok (.pos6 0x7) ∧
      decode (.iw 0b0001111101) = .ok (.pos7 0xd) ∧
      decode (.iw 0b0010000111) = .ok (.pos8 0x7) ∧
      decode (.iw 0b0010011101) = .ok (.pos9 0xd) ∧
      decode (.iw 0b0010100000) = .ok (.pos10 0x0) ∧
      decode (.iw 0b0010111000) = .ok (.pos11 0x8) ∧
      decode (.iw 0b0011000000) = .ok (.pos12 0x0) ∧
      decode (.iw 0b0011010100) = .ok (.pos13 0x4) ∧
      decode (.iw 0b0011100000) = .ok (.pos14 0x0) ∧
      decode (.iw 0b0000000000) = .ok (.tag0 0x0) ∧
      decode (.iw 0b0011111111) = .ok (.tag15 0xf) := by decide

/-- V-ENC: kinds 01, 10, 11, the payload of the last two ignored, and the `rst` pin. -/
theorem test_decode_control :
    decode (.iw 0b0100000011) = .ok (.start 3) ∧
      decode (.iw 0b0100000000) = .ok (.start 0) ∧
      decode (.iw 0b0111111111) = .ok (.start 255) ∧
      decode (.iw 0b1000000000) = .ok .timeout ∧
      decode (.iw 0b1010100101) = .ok .timeout ∧
      decode (.iw 0b1100000000) = .ok .xfail ∧
      decode (.iw 0b1111111111) = .ok .xfail ∧
      decode (.pin 0b1) = .ok .reset := by decide

/-- V-SLOTS: the slot words of F1, and V-SLOT 0x1, 0x1. -/
theorem test_decode_slots :
    decode (.slot .s1 0b10100111) = .ok (.slot1 true 0x27) ∧
      decode (.slot .s2 0b10111111) = .ok (.slot2 true 0x3F) ∧
      decode (.slot .s3 0b01111101) = .ok (.slot3 false 0x7D) ∧
      decode (.slot .s4 0b01111101) = .ok (.slot4 false 0x7D) ∧
      decode (.slot .s1 0b00010001) = .ok (.slot1 false 0x11) ∧
      decode (.slot .s4 0b10000000) = .ok (.slot4 true 0x00) := by decide

/-- R205 to R210: the flag nibbles of F6 and of Ff. -/
theorem test_decode_flag_bytes :
    decode (.flagNibble .p1 0b1111) = .ok (.flags1 0xF) ∧
      decode (.flagNibble .p10 0b0010) = .ok (.flags10 2) ∧
      decode (.flagNibble .p11 0b1000) = .ok (.flags11 8) ∧
      decode (.flagNibble .p12 0b0011) = .ok (.flags12 3) ∧
      decode (.flagNibble .p13 0b1101) = .ok (.flags13 0xD) ∧
      decode (.flagNibble .p14 0b0100) = .ok (.flags14 4) := by decide

/-- V-SEG: the twelve keys. -/
theorem test_decode_segment_keys :
    decode (.segKey 0b1111101) = .ok .seg0 ∧
      decode (.segKey 0b0000101) = .ok .seg1 ∧
      decode (.segKey 0b1011011) = .ok .seg2 ∧
      decode (.segKey 0b0011111) = .ok .seg3 ∧
      decode (.segKey 0b0100111) = .ok .seg4 ∧
      decode (.segKey 0b0111110) = .ok .seg5 ∧
      decode (.segKey 0b1111110) = .ok .seg6 ∧
      decode (.segKey 0b0010101) = .ok .seg7 ∧
      decode (.segKey 0b1111111) = .ok .seg8 ∧
      decode (.segKey 0b0111111) = .ok .seg9 ∧
      decode (.segKey 0b0000000) = .ok .segBlank ∧
      decode (.segKey 0b1101000) = .ok .segL := by decide

/-- V-FLAG: the nibble of each of the 24 changed bytes. -/
theorem test_decode_flag_bits :
    decode (.flagBit .p1 0b1000) = .ok .flagAc ∧
      decode (.flagBit .p1 0b0100) = .ok .flagDc ∧
      decode (.flagBit .p1 0b0010) = .ok .flagAutoRange ∧
      decode (.flagBit .p1 0b0001) = .ok .flagRs232 ∧
      decode (.flagBit .p10 0b1000) = .ok .flagMicro ∧
      decode (.flagBit .p10 0b0100) = .ok .flagNano ∧
      decode (.flagBit .p10 0b0010) = .ok .flagKilo ∧
      decode (.flagBit .p10 0b0001) = .ok .flagDiode ∧
      decode (.flagBit .p11 0b1000) = .ok .flagMilli ∧
      decode (.flagBit .p11 0b0100) = .ok .flagPercent ∧
      decode (.flagBit .p11 0b0010) = .ok .flagMega ∧
      decode (.flagBit .p11 0b0001) = .ok .flagContinuity ∧
      decode (.flagBit .p12 0b1000) = .ok .flagFarads ∧
      decode (.flagBit .p12 0b0100) = .ok .flagOhms ∧
      decode (.flagBit .p12 0b0010) = .ok .flagDelta ∧
      decode (.flagBit .p12 0b0001) = .ok .flagHold ∧
      decode (.flagBit .p13 0b1000) = .ok .flagAmps ∧
      decode (.flagBit .p13 0b0100) = .ok .flagVolts ∧
      decode (.flagBit .p13 0b0010) = .ok .flagHertz ∧
      decode (.flagBit .p13 0b0001) = .ok .flagBatteryLow ∧
      decode (.flagBit .p14 0b1000) = .ok .flagRsv14_3 ∧
      decode (.flagBit .p14 0b0100) = .ok .flagRsv14_2 ∧
      decode (.flagBit .p14 0b0010) = .ok .flagRsv14_1 ∧
      decode (.flagBit .p14 0b0001) = .ok .flagRsv14_0 := by decide

/-- Words that no row describes are rejected by name. -/
theorem test_decode_rejects :
    decode (.pin 0) = .error .pinLow ∧ decode (.segKey 0x11) = .error (.unmappedKey 0x11) ∧
      decode (.flagBit .p1 0) = .error (.notOneFlagBit .p1 0) ∧
      decode (.flagBit .p14 0b0110) = .error (.notOneFlagBit .p14 6) := by decide

/-- Table words: one of each size (assumption log 11). -/
theorem test_table_words :
    decodeTableWord 1 1 = some .reset ∧ decodeTableWord 10 0x04B = some (.pos4 0xB) ∧
      decodeTableWord 16 0x103 = some (.start 3) ∧ decodeTableWord 16 0x400 = none ∧
      decodeTableWord 8 0x7D = some .seg0 ∧ decodeTableWord 8 0xA7 = some (.slot1 true 0x27) ∧
      decodeTableWord 4 8 = some .flagAc ∧ decodeTableWord 4 3 = some (.flags1 3) := by decide

/-- A placed table word is run by the next step. -/
theorem test_fetch_word : regsOf (step (State.reset.withFetchWord 16 0x103)) =
    some ⟨.hunt, 1, [], 0, some 3, .none, none, none⟩ := by decide

/-! The synchronizer: V-C and V-B of spec/95_test_vectors.md. -/

/-- V-B1. -/
theorem test_pos1_accepts :
    regsOf (exec (.pos1 0x4) (hunting 1 (F1.toList.take 0) 0 3)) = some ⟨.hunt, 2, F1.toList.take 1, 0, some 3, .none, none, none⟩ := by decide

/-- V-B2. -/
theorem test_pos2_accepts :
    regsOf (exec (.pos2 0xa) (hunting 2 (F1.toList.take 1) 0 3)) = some ⟨.hunt, 3, F1.toList.take 2, 0, some 3, .none, none, none⟩ := by decide

/-- V-B3. -/
theorem test_pos3_accepts :
    regsOf (exec (.pos3 0x7) (hunting 3 (F1.toList.take 2) 0 3)) = some ⟨.hunt, 4, F1.toList.take 3, 0, some 3, .none, none, none⟩ := by decide

/-- V-B4. -/
theorem test_pos4_accepts :
    regsOf (exec (.pos4 0xb) (hunting 4 (F1.toList.take 3) 0 3)) = some ⟨.hunt, 5, F1.toList.take 4, 0, some 3, .none, none, none⟩ := by decide

/-- V-B5. -/
theorem test_pos5_accepts :
    regsOf (exec (.pos5 0xf) (hunting 5 (F1.toList.take 4) 0 3)) = some ⟨.hunt, 6, F1.toList.take 5, 0, some 3, .none, none, none⟩ := by decide

/-- V-B6. -/
theorem test_pos6_accepts :
    regsOf (exec (.pos6 0x7) (hunting 6 (F1.toList.take 5) 0 3)) = some ⟨.hunt, 7, F1.toList.take 6, 0, some 3, .none, none, none⟩ := by decide

/-- V-B7. -/
theorem test_pos7_accepts :
    regsOf (exec (.pos7 0xd) (hunting 7 (F1.toList.take 6) 0 3)) = some ⟨.hunt, 8, F1.toList.take 7, 0, some 3, .none, none, none⟩ := by decide

/-- V-B8. -/
theorem test_pos8_accepts :
    regsOf (exec (.pos8 0x7) (hunting 8 (F1.toList.take 7) 0 3)) = some ⟨.hunt, 9, F1.toList.take 8, 0, some 3, .none, none, none⟩ := by decide

/-- V-B9. -/
theorem test_pos9_accepts :
    regsOf (exec (.pos9 0xd) (hunting 9 (F1.toList.take 8) 0 3)) = some ⟨.hunt, 10, F1.toList.take 9, 0, some 3, .none, none, none⟩ := by decide

/-- V-B10. -/
theorem test_pos10_accepts :
    regsOf (exec (.pos10 0x0) (hunting 10 (F1.toList.take 9) 0 3)) = some ⟨.hunt, 11, F1.toList.take 10, 0, some 3, .none, none, none⟩ := by decide

/-- V-B11. -/
theorem test_pos11_accepts :
    regsOf (exec (.pos11 0x8) (hunting 11 (F1.toList.take 10) 0 3)) = some ⟨.hunt, 12, F1.toList.take 11, 0, some 3, .none, none, none⟩ := by decide

/-- V-B12. -/
theorem test_pos12_accepts :
    regsOf (exec (.pos12 0x0) (hunting 12 (F1.toList.take 11) 0 3)) = some ⟨.hunt, 13, F1.toList.take 12, 0, some 3, .none, none, none⟩ := by decide

/-- V-B13. -/
theorem test_pos13_accepts :
    regsOf (exec (.pos13 0x4) (hunting 13 (F1.toList.take 12) 0 3)) = some ⟨.hunt, 14, F1.toList.take 13, 0, some 3, .none, none, none⟩ := by decide

/-- V-B14. -/
theorem test_pos14_completes :
    answerOf (exec (.pos14 0) (hunting 14 (F1.toList.take 13) 0 3)) = some (.accepted (some (.frame F1 0))) ∧
      regsOf (exec (.pos14 0) (hunting 14 (F1.toList.take 13) 0 3)) = some ⟨.idle, 1, [], 0, some 3, .ok, some F1, some 0⟩ := by decide

/-- V-B25. -/
theorem test_pos14_completes_with_count :
    answerOf (exec (.pos14 0) (hunting 14 (F2.toList.take 13) 3 10)) = some (.accepted (some (.frame F2 3))) := by decide

/-- V-B26: one position early, twelve bytes are dropped. -/
theorem test_pos14_early :
    regsOf (exec (.pos14 0) (hunting 13 (F1.toList.take 12) 0 3)) = some ⟨.hunt, 1, [], 1, some 3, .none, none, none⟩ := by decide

/-- V-B15. -/
theorem test_pos9_mismatch :
    regsOf (exec (.pos9 0xD) (hunting 6 (F1.toList.take 5) 0 3)) = some ⟨.hunt, 1, [], 1, some 3, .none, none, none⟩ := by decide

/-- V-B16: the byte is the new candidate. -/
theorem test_pos1_restarts :
    regsOf (exec (.pos1 0) (hunting 6 (F1.toList.take 5) 0 3)) = some ⟨.hunt, 2, [0x10], 1, some 3, .none, none, none⟩ := by decide

/-- V-B18. -/
theorem test_pos2_mismatch :
    regsOf (exec (.pos2 0xA) (hunting 1 [] 0 3)) = some ⟨.hunt, 1, [], 1, some 3, .none, none, none⟩ := by decide

/-- V-B19. -/
theorem test_tag0_mismatch :
    regsOf (exec (.tag0 0) (hunting 1 [] 0 3)) = some ⟨.hunt, 1, [], 1, some 3, .none, none, none⟩ := by decide

/-- V-B20. -/
theorem test_tag15_mismatch :
    regsOf (exec (.tag15 0xF) (hunting 1 [] 0 3)) = some ⟨.hunt, 1, [], 1, some 3, .none, none, none⟩ := by decide

/-- V-B21. -/
theorem test_tag15_limit :
    answerOf (exec (.tag15 0xF) (hunting 1 [] 2 3)) = some (.accepted (some (.syncError .attempts 3))) ∧
      regsOf (exec (.tag15 0xF) (hunting 1 [] 2 3)) = some ⟨.idle, 1, [], 0, some 3, .errSyncAttempts, none, some 3⟩ := by decide

/-- V-B22: the byte that exhausts the limit is not kept although its tag is 1. -/
theorem test_limit_drops_candidate :
    regsOf (exec (decodeByte 0x14) (hunting 2 [0x14] 1 2)) = some ⟨.idle, 1, [], 0, some 2, .errSyncAttempts, none, some 2⟩ := by decide

/-- V-B23: a limit of 0 acts as 1. -/
theorem test_limit_zero :
    answerOf (exec (decodeByte 0x21) (hunting 1 [] 0 0)) = some (.accepted (some (.syncError .attempts 1))) := by decide

/-- V-C1. -/
theorem test_start_begins :
    regsOf (exec (.start 3) State.reset) = some ⟨.hunt, 1, [], 0, some 3, .none, none, none⟩ := by decide

/-- V-C2. -/
theorem test_start_ignored :
    regsOf (exec (.start 9) (hunting 2 [0x14] 0 3)) = some ⟨.hunt, 2, [0x14], 0, some 3, .none, none, none⟩ := by decide

/-- V-C3. -/
theorem test_timeout_ends :
    answerOf (exec .timeout (hunting 7 (F1.toList.take 6) 0 3)) = some (.accepted (some (.syncError .time 0))) ∧
      regsOf (exec .timeout (hunting 7 (F1.toList.take 6) 0 3)) = some ⟨.idle, 1, [], 0, some 3, .errSyncTime, none, some 0⟩ := by decide

/-- V-C7. -/
theorem test_timeout_ignored :
    regsOf (exec .timeout (ended .errTransport 3 none 1)) = some ⟨.idle, 1, [], 0, some 3, .errTransport, none, some 1⟩ := by decide

/-- V-C5. -/
theorem test_xfail_ends :
    answerOf (exec .xfail (hunting 1 [] 1 3)) = some (.accepted (some (.transportError 1))) ∧
      regsOf (exec .xfail (hunting 1 [] 1 3)) = some ⟨.idle, 1, [], 0, some 3, .errTransport, none, some 1⟩ := by decide

/-- V-C6. -/
theorem test_xfail_ignored :
    regsOf (exec .xfail (ended .errTransport 3 none 1)) = some ⟨.idle, 1, [], 0, some 3, .errTransport, none, some 1⟩ := by decide

/-- V-C8. -/
theorem test_byte_not_enabled :
    answerOf (exec (decodeByte 0x14) State.reset) = some .notEnabled ∧
      regsOf (exec (decodeByte 0x14) State.reset) = some State.reset.registers := by decide

/-- V-C11: no outcome. -/
theorem test_reset_in_hunt :
    answerOf (exec .reset (hunting 13 (F1.toList.take 12) 2 9)) = some (.accepted none) ∧
      regsOf (exec .reset (hunting 13 (F1.toList.take 12) 2 9)) = some State.reset.registers := by decide

/-- No event, no change (R6). -/
theorem test_waits : regsOf (step (hunting 2 [0x14] 0 3)) = some (hunting 2 [0x14] 0 3).registers := by decide

/-- A low pin is no event (R6). -/
theorem test_low_pin_waits :
    regsOf (step { hunting 2 [0x14] 0 3 with input := [.pin 0] }) = some (hunting 2 [0x14] 0 3).registers := by decide

/-- R90: a key without an entry is looked up like any other. -/
theorem test_unmapped_key :
    (workOf (step { State.reset with input := [.segKey 0x11] })).bind (·.seg) = some (0x11, none) := by decide

/-- R202: the nibble 3 of F6's byte 12 as one offer adds `DELTA` and `HOLD`. -/
theorem test_two_flag_bits :
    (workOf (step { State.reset with input := [.flagBit .p12 3] })).map (·.flags) =
      some { FlagSet.empty with modeSet := [.delta, .hold], rawFlags := 0x000300 } := by decide

/-- The reset state under another counter width. -/
def withWidth (w : Nat) (input : List PortWord) : State :=
  { State.reset with
    config := { referenceConfig with attW := w }
    input := input }

/-- U15: with `ATT_W` = 4 the operand 16 is refused, 15 is taken. -/
theorem test_start_refused :
    step (withWidth 4 [encode (.start 16)]) = .refused (.operandTooWide 16) ∧
      regsOf (step (withWidth 4 [encode (.start 15)])) = some ⟨.hunt, 1, [], 0, some 15, .none, none, none⟩ :=
  ⟨rfl, by decide⟩

/-- R6, R7: with `ATT_W` = 16 the limit 300 is taken, as the abstract event. -/
theorem test_start_beyond_a_byte :
    encode (.start 300) = .startEvent 300 ∧
      regsOf (step (withWidth 16 [encode (.start 300)])) = some ⟨.hunt, 1, [], 0, some 300, .none, none, none⟩ := by
  decide

/-! The decode operations: V-SLOTS, V-SEG, V-FLAG. -/

/-- V-SLOTS, `SLOT1` on F1. -/
theorem test_slot1 :
    (workOf (exec (.slot1 true 0x27) State.reset)).bind (·.slot1) =
      some ⟨true, 0x27, .char (.digit 4), true⟩ := by decide

/-- V-SLOTS, `SLOT2` on F1. -/
theorem test_slot2 :
    (workOf (exec (.slot2 true 0x3F) State.reset)).bind (·.slot2) =
      some ⟨true, 0x3F, .char (.digit 9), true⟩ := by decide

/-- V-SLOTS, `SLOT3` on F1. -/
theorem test_slot3 :
    (workOf (exec (.slot3 false 0x7D) State.reset)).bind (·.slot3) =
      some ⟨false, 0x7D, .char (.digit 0), true⟩ := by decide

/-- V-SLOTS, `SLOT4` on F1. -/
theorem test_slot4 :
    (workOf (exec (.slot4 false 0x7D) State.reset)).bind (·.slot4) =
      some ⟨false, 0x7D, .char (.digit 0), true⟩ := by decide

/-- F5: the key 0x11 is unmapped. -/
theorem test_slot2_unmapped :
    (workOf (exec (.slot2 false 0x11) State.reset)).bind (·.slot2) =
      some ⟨false, 0x11, .invalid, false⟩ := by decide

/-- V-SEG: the twelve look-ups. -/
theorem test_segment_keys :
    (workOf (exec .seg0 State.reset)).bind (·.seg) = some (0b1111101, some (.digit 0)) ∧
      (workOf (exec .seg1 State.reset)).bind (·.seg) = some (0b0000101, some (.digit 1)) ∧
      (workOf (exec .seg2 State.reset)).bind (·.seg) = some (0b1011011, some (.digit 2)) ∧
      (workOf (exec .seg3 State.reset)).bind (·.seg) = some (0b0011111, some (.digit 3)) ∧
      (workOf (exec .seg4 State.reset)).bind (·.seg) = some (0b0100111, some (.digit 4)) ∧
      (workOf (exec .seg5 State.reset)).bind (·.seg) = some (0b0111110, some (.digit 5)) ∧
      (workOf (exec .seg6 State.reset)).bind (·.seg) = some (0b1111110, some (.digit 6)) ∧
      (workOf (exec .seg7 State.reset)).bind (·.seg) = some (0b0010101, some (.digit 7)) ∧
      (workOf (exec .seg8 State.reset)).bind (·.seg) = some (0b1111111, some (.digit 8)) ∧
      (workOf (exec .seg9 State.reset)).bind (·.seg) = some (0b0111111, some (.digit 9)) ∧
      (workOf (exec .segBlank State.reset)).bind (·.seg) = some (0b0000000, some (.blank)) ∧
      (workOf (exec .segL State.reset)).bind (·.seg) = some (0b1101000, some (.el)) := by
  refine ⟨?_, ?_, ?_, ?_, ?_, ?_, ?_, ?_, ?_, ?_, ?_, ?_⟩ <;> decide

/-- V-FLAG, position 1: the one identity, all other sets empty. -/
theorem test_flag_bits_p1 :
    (workOf (exec .flagAc State.reset)).map (·.flags) =
        some { FlagSet.empty with submodeSet := [.ac], rawFlags := 0x800000 } ∧
      (workOf (exec .flagDc State.reset)).map (·.flags) =
        some { FlagSet.empty with submodeSet := [.dc], rawFlags := 0x400000 } ∧
      (workOf (exec .flagAutoRange State.reset)).map (·.flags) =
        some { FlagSet.empty with modeSet := [.autoRange], rawFlags := 0x200000 } ∧
      (workOf (exec .flagRs232 State.reset)).map (·.flags) =
        some { FlagSet.empty with modeSet := [.rs232], rawFlags := 0x100000 } := by decide

/-- V-FLAG, position 10: the one identity, all other sets empty. -/
theorem test_flag_bits_p10 :
    (workOf (exec .flagMicro State.reset)).map (·.flags) =
        some { FlagSet.empty with scaleSet := [.micro], rawFlags := 0x80000 } ∧
      (workOf (exec .flagNano State.reset)).map (·.flags) =
        some { FlagSet.empty with scaleSet := [.nano], rawFlags := 0x40000 } ∧
      (workOf (exec .flagKilo State.reset)).map (·.flags) =
        some { FlagSet.empty with scaleSet := [.kilo], rawFlags := 0x20000 } ∧
      (workOf (exec .flagDiode State.reset)).map (·.flags) =
        some { FlagSet.empty with submodeSet := [.diode], rawFlags := 0x10000 } := by decide

/-- V-FLAG, position 11: the one identity, all other sets empty. -/
theorem test_flag_bits_p11 :
    (workOf (exec .flagMilli State.reset)).map (·.flags) =
        some { FlagSet.empty with scaleSet := [.milli], rawFlags := 0x8000 } ∧
      (workOf (exec .flagPercent State.reset)).map (·.flags) =
        some { FlagSet.empty with unitSet := [.percent], rawFlags := 0x4000 } ∧
      (workOf (exec .flagMega State.reset)).map (·.flags) =
        some { FlagSet.empty with scaleSet := [.mega], rawFlags := 0x2000 } ∧
      (workOf (exec .flagContinuity State.reset)).map (·.flags) =
        some { FlagSet.empty with submodeSet := [.continuity], rawFlags := 0x1000 } := by decide

/-- V-FLAG, position 12: the one identity, all other sets empty. -/
theorem test_flag_bits_p12 :
    (workOf (exec .flagFarads State.reset)).map (·.flags) =
        some { FlagSet.empty with unitSet := [.farads], rawFlags := 0x800 } ∧
      (workOf (exec .flagOhms State.reset)).map (·.flags) =
        some { FlagSet.empty with unitSet := [.ohms], rawFlags := 0x400 } ∧
      (workOf (exec .flagDelta State.reset)).map (·.flags) =
        some { FlagSet.empty with modeSet := [.delta], rawFlags := 0x200 } ∧
      (workOf (exec .flagHold State.reset)).map (·.flags) =
        some { FlagSet.empty with modeSet := [.hold], rawFlags := 0x100 } := by decide

/-- V-FLAG, position 13: the one identity, all other sets empty. -/
theorem test_flag_bits_p13 :
    (workOf (exec .flagAmps State.reset)).map (·.flags) =
        some { FlagSet.empty with unitSet := [.amps], rawFlags := 0x80 } ∧
      (workOf (exec .flagVolts State.reset)).map (·.flags) =
        some { FlagSet.empty with unitSet := [.volts], rawFlags := 0x40 } ∧
      (workOf (exec .flagHertz State.reset)).map (·.flags) =
        some { FlagSet.empty with unitSet := [.hertz], rawFlags := 0x20 } ∧
      (workOf (exec .flagBatteryLow State.reset)).map (·.flags) =
        some { FlagSet.empty with modeSet := [.batteryLow], rawFlags := 0x10 } := by decide

/-- V-FLAG, position 14: the one identity, all other sets empty. -/
theorem test_flag_bits_p14 :
    (workOf (exec .flagRsv14_3 State.reset)).map (·.flags) =
        some { FlagSet.empty with reservedFlags := [(.p14, 3)], rawFlags := 0x8 } ∧
      (workOf (exec .flagRsv14_2 State.reset)).map (·.flags) =
        some { FlagSet.empty with reservedFlags := [(.p14, 2)], rawFlags := 0x4 } ∧
      (workOf (exec .flagRsv14_1 State.reset)).map (·.flags) =
        some { FlagSet.empty with reservedFlags := [(.p14, 1)], rawFlags := 0x2 } ∧
      (workOf (exec .flagRsv14_0 State.reset)).map (·.flags) =
        some { FlagSet.empty with reservedFlags := [(.p14, 0)], rawFlags := 0x1 } := by decide

/-- Ff: all four flags of a position at once, one position after the other (R205 to R210). -/
theorem test_flag_bytes :
    (workOf (exec (.flags1 0xF) State.reset)).map (·.flags.modeSet) = some [.autoRange, .rs232] ∧
      (workOf (exec (.flags10 0xF) State.reset)).map (·.flags.scaleSet) = some [.nano, .micro, .kilo] ∧
      (workOf (exec (.flags11 0xF) State.reset)).map (·.flags.scaleSet) = some [.milli, .mega] ∧
      (workOf (exec (.flags12 0xF) State.reset)).map (·.flags.unitSet) = some [.ohms, .farads] ∧
      (workOf (exec (.flags13 0xF) State.reset)).map (·.flags.unitSet) = some [.volts, .amps, .hertz] ∧
      (workOf (exec (.flags14 0xF) State.reset)).map (·.flags.rawFlags) = some 0x00000F := by decide

/-! Whole frames: spec/95_test_vectors.md section 2.6. -/

/-- F1. -/
theorem test_F1 :
    (reading F1).rawVal = ['-', '4', '.', '9', '0', '0'] ∧ (reading F1).numeric = some ⟨true, 4900, -6⟩ ∧
      (reading F1).measurement = some .volts ∧ (reading F1).scale = some .milli ∧ (reading F1).acdc = .dc ∧
      (reading F1).sane = true ∧ (reading F1).fields.flags.rawFlags = 0x408040 := by decide

/-- F2 and F2n. -/
theorem test_F2 :
    (reading F2).rawVal = ['0', '.', '1', '2', '3'] ∧ (reading F2).numeric = some ⟨false, 123, -3⟩ ∧
      (reading F2).measurement = none ∧ (reading F2).acdc = .absent ∧
      (reading F2n).rawVal = ['-', '0', '.', '1', '2', '3'] ∧ (reading F2n).numeric = some ⟨true, 123, -3⟩ := by decide

/-- F3. -/
theorem test_F3 :
    (reading F3).sane = false ∧ (reading F3).reason = 0b0001 ∧
      (reading F3).rawVal = ['0', '.', '1', '.', '2', '3'] ∧ (reading F3).numeric = none ∧
      (reading F3).fields.digits.dp = none := by decide

/-- F4. -/
theorem test_F4 :
    (reading F4).sane = true ∧ (reading F4).rawVal = [' ', '0', 'L', ' '] ∧ (reading F4).numeric = none ∧
      (reading F4).measurement = some .ohms ∧ (reading F4).scale = some .mega ∧
      (reading F4).fields.flags.rawFlags = 0x202400 := by decide

/-- F5. -/
theorem test_F5 :
    (reading F5).sane = false ∧ (reading F5).reason = 0b1000 ∧
      (reading F5).rawVal = ['1', '?', '.', '3', '4'] ∧ (reading F5).numeric = none ∧ (reading F5).acdc = .ac ∧
      (reading F5).fields.digits.dp = some 2 := by decide

/-- F6. -/
theorem test_F6 :
    (reading F6).reason = 0b0110 ∧ (reading F6).numeric = none ∧ (reading F6).measurement = none ∧
      (reading F6).delta = true ∧ (reading F6).fields.flags.scaleSet = [.milli, .kilo] ∧
      (reading F6).fields.flags.modeSet = [.delta, .hold, .batteryLow] ∧
      (reading F6).fields.flags.reservedFlags = [(.p14, 2)] ∧ (reading F6).fields.flags.rawFlags = 0x0283D4 := by decide

/-- F7. -/
theorem test_F7 :
    (reading F7).rawVal = ['-', '0', '0', '0', '.', '0'] ∧ (reading F7).numeric = some ⟨true, 0, -1⟩ ∧ (reading F7).sane = true := by decide

/-- F8: the largest value. -/
theorem test_F8 :
    (reading F8).numeric = some ⟨false, 9999, 6⟩ := by decide

/-- F9: the smallest magnitude. -/
theorem test_F9 :
    (reading F9).numeric = some ⟨false, 1, -12⟩ := by decide

/-- F10. -/
theorem test_F10 :
    (reading F10).sane = true ∧ (reading F10).fields.flags.submodeSet = [.dc, .diode] ∧ (reading F10).acdc = .dc := by decide

/-- F11. -/
theorem test_F11 :
    (reading F11).reason = 0b0001 ∧ (reading F11).acdc = .both ∧ (reading F11).numeric = none := by decide

/-- Fz. -/
theorem test_Fz :
    (reading Fz).sane = true ∧ (reading Fz).rawVal = [' ', ' ', ' ', ' '] ∧ (reading Fz).numeric = none := by decide

/-- Ff. -/
theorem test_Ff :
    (reading Ff).reason = 0b0111 ∧ (reading Ff).rawVal = ['-', '8', '.', '8', '.', '8', '.', '8'] ∧
      (reading Ff).scale = none ∧ (reading Ff).acdc = .both ∧ (reading Ff).fields.flags.rawFlags = 0xFFFFFF := by decide

/-- R97: `DISPLAY(1, 4900, {2}, {DC, MILLI, VOLTS})` is F1. -/
theorem test_display_pseudo_operation :
    displayFrame referenceConfig true (.digit 4) (.digit 9) (.digit 0) (.digit 0) true false false
      [.submode .dc, .scale .milli, .unit .volts] = some F1 := by decide

/-- R97: F6, with one reserved flag of four named. -/
theorem test_display_one_reserved_flag :
    displayFrame referenceConfig false (.digit 1) (.digit 2) (.digit 3) (.digit 4) false false false
      [.scale .kilo, .scale .milli, .unit .amps, .unit .volts, .mode .delta, .mode .hold, .mode .batteryLow,
        .reserved .p14 2] = some F6 := by decide

/-- R245, R212: the hardware forms of F1. -/
theorem test_hardware_forms :
    (reading F1).numeric.map numericBits = some (true, 4900, 0b11010) ∧
      scaleBits (reading F1).fields.flags = 0b00100 ∧
      (unitBits referenceConfig (reading F1).fields.flags).toNat = 0b000001 ∧
      submodeBits (reading F1).fields.flags = 0b0010 := by decide

/-- R212: the other two sets of F6. -/
theorem test_hardware_forms_F6 :
    (modeBits referenceConfig (reading F6).fields.flags).toNat = 0b00111 ∧
      (reservedBits referenceConfig (reading F6).fields.flags).toNat = 0b0100 := by decide

/-- An admissible table with a reserved position off 14, and a unit of its own in its place. -/
def otherTable : Config :=
  { referenceConfig with
    flagRows := { flagRowsRef with
      p1 := ⟨.submode .ac, .submode .dc, .mode .autoRange, .reserved⟩
      p14 := ⟨.unit (.other 0), .reserved, .reserved, .reserved⟩ } }

/-- R203, R212: seven units, four modes and four reserved positions then have a bit each. -/
theorem test_hardware_forms_other_table :
    otherTable.wf = true ∧
      (unitBits otherTable (decodeFrame otherTable Ff).flags).toNat = 0b1111111 ∧
      (modeBits otherTable (decodeFrame otherTable Ff).flags).toNat = 0b1111 ∧
      (reservedBits otherTable (decodeFrame otherTable Ff).flags).toNat = 0b1111 := by decide

/-- R37: `V-C6` start state: no frame to read, a count of 1. -/
theorem test_host_reads :
    readOutFrame (ended .errTransport 3 none 1) = .error (.noValue .outFrame) ∧
      readOutCount (ended .errTransport 3 none 1) = .ok 1 ∧ readOutCount State.reset = .error (.noValue .outCount) := by decide

/-! Witnesses: a concrete state and operands that meet the hypotheses of each statement together, one for every
clause, at the boundaries where the clauses meet. -/

/-- `HUNT`, nothing taken yet. -/
def atOne : State := hunting 1 [] 0 3

/-- `HUNT` at position 6 with one discard below the limit 3. -/
def atSix : State := hunting 6 (F1.toList.take 5) 1 3

/-- `HUNT` at position 13, the last inner one. -/
def atThirteen : State := hunting 13 (F1.toList.take 12) 0 3

/-- `HUNT` at position 14, one byte short of F1. -/
def atFourteen : State := hunting 14 (F1.toList.take 13) 0 3

/-- `HUNT` at position 2 with the last discard before the limit 2. -/
def atLimit : State := hunting 2 [0x14] 1 2

/-- `HUNT` with the limit 0. -/
def atZero : State := hunting 1 [] 0 0

/-- `IDLE` after F1. -/
def afterF1 : State := ended .ok 3 (some F1) 0

/-- `IDLE` after a time-out. -/
def afterTimeout : State := ended .errSyncTime 3 none 1

theorem inv_atOne : Invariants atOne := by constructor <;> decide
theorem inv_atSix : Invariants atSix := by constructor <;> decide
theorem inv_atThirteen : Invariants atThirteen := by constructor <;> decide
theorem inv_atFourteen : Invariants atFourteen := by constructor <;> decide
theorem inv_atLimit : Invariants atLimit := by constructor <;> decide
theorem inv_atZero : Invariants atZero := by constructor <;> decide
theorem inv_afterF1 : Invariants afterF1 := by constructor <;> decide
theorem inv_afterTimeout : Invariants afterTimeout := by constructor <;> decide

/-- The invariants refuse a state that no run reaches. -/
theorem inv_refuses : ¬ Invariants (hunting 3 [0x14] 0 3) := fun h => absurd h.i2 (by decide)

theorem witness_StepRunsDecodedInstruction :
    { atOne with input := [.iw 0x014] }.input = [PortWord.iw 0x014] ∧ decode (.iw 0x014) = .ok (.pos1 4) := by
  decide

theorem witness_StepWithoutInstruction :
    State.reset.input = [] ∧
      ({ atOne with input := [.pin 0] }.input = [PortWord.pin 0] ∧ decode (.pin 0) = .error .pinLow) ∧
      ({ atOne with input := [.segKey 0x11] }.input = [PortWord.segKey 0x11] ∧
        decode (.segKey 0x11) = .error (.unmappedKey 0x11)) ∧
      { atOne with input := [.flagBit .p14 6] }.input = [PortWord.flagBit .p14 6] ∧
        decode (.flagBit .p14 6) = .error (.notOneFlagBit .p14 6) := by decide

theorem witness_TableWordRunsNext : decodeTableWord 16 0x0E0 = some (.pos14 0) := by decide

theorem witness_DecodeEncodeAgree :
    decode (.iw 0x04B) = .ok (.pos4 0xB) ∧ Instr.pos4 0xB ≠ .timeout ∧ Instr.pos4 0xB ≠ .xfail ∧
      (∀ m, PortWord.iw 0x04B ≠ .startEvent m) ∧ 256 ≤ 256 :=
  ⟨by decide, by decide, by decide, fun _ h => (by cases h), by decide⟩

theorem witness_StartBeginsCapture :
    (State.reset.phase = .idle ∧ atOne.phase = .hunt) ∧ 255 < 2 ^ State.reset.config.attW ∧
      300 < 2 ^ (withWidth 16 []).config.attW ∧ (withWidth 16 []).phase = .idle := by decide

theorem witness_TimeoutEndsCapture : atSix.phase = .hunt ∧ afterF1.phase = .idle := by decide

theorem witness_XfailEndsCapture : atOne.phase = .hunt ∧ afterTimeout.phase = .idle := by decide

theorem witness_BytesNotEnabledInIdle :
    afterF1.phase = .idle ∧
      Instr.tag0 0 ∈ [Instr.tag0 0, .pos1 0, .pos2 0, .pos3 0, .pos4 0, .pos5 0, .pos6 0, .pos7 0, .pos8 0, .pos9 0,
        .pos10 0, .pos11 0, .pos12 0, .pos13 0, .pos14 0, .tag15 0] := by decide

theorem witness_ReadyPortTellsEnabled :
    (inReady afterF1 0x014 = false ∧ ∃ t, exec (decodeInputWord 0x014) afterF1 = .next t) ∧
      inReady atOne 0x014 = true ∧ ∃ t, exec (decodeInputWord 0x014) atOne = .next t :=
  ⟨⟨by decide, _, rfl⟩, by decide, _, rfl⟩

theorem witness_Pos1Rule :
    (I2 atOne ∧ atOne.phase = .hunt ∧ atOne.expect = 1) ∧
      (I2 atSix ∧ atSix.phase = .hunt ∧ atSix.maxAtt = some 3 ∧ atSix.expect ≠ 1 ∧ atSix.discards + 1 < 3) ∧
      (I2 atLimit ∧ atLimit.phase = .hunt ∧ atLimit.maxAtt = some 2 ∧ atLimit.expect ≠ 1 ∧
        2 ≤ atLimit.discards + 1) := by decide

theorem witness_InnerPositionBytesRule :
    (atLimit.phase = .hunt ∧ atLimit.expect = 2) ∧ (atThirteen.phase = .hunt ∧ atThirteen.expect = 13) ∧
      (atSix.phase = .hunt ∧ atSix.maxAtt = some 3 ∧ atSix.expect ≠ 13 ∧ atSix.discards + 1 < 3) ∧
      (atLimit.maxAtt = some 2 ∧ atLimit.expect ≠ 13 ∧ 2 ≤ atLimit.discards + 1) := by decide

theorem witness_Pos14Rule :
    (atFourteen.phase = .hunt ∧ atFourteen.expect = 14 ∧ atFourteen.cur ++ [byteOf 14 0] = F1.toList) ∧
      (atSix.phase = .hunt ∧ atSix.maxAtt = some 3 ∧ atSix.expect ≠ 14 ∧ atSix.discards + 1 < 3) ∧
      (atLimit.maxAtt = some 2 ∧ atLimit.expect ≠ 14 ∧ 2 ≤ atLimit.discards + 1) ∧
      ∃ t, exec (.pos14 0) atFourteen = .next t ∧ t.answer = .accepted (some (.frame F1 0)) :=
  ⟨by decide, by decide, by decide, _, rfl, rfl⟩

theorem witness_StrayTagRule :
    (atOne.phase = .hunt ∧ atOne.maxAtt = some 3 ∧ atOne.discards + 1 < 3) ∧
      (atZero.phase = .hunt ∧ atZero.maxAtt = some 0 ∧ 0 ≤ atZero.discards + 1) := by decide

theorem witness_ByteTransitionTable_accept :
    Invariants atThirteen ∧ atThirteen.phase = .hunt ∧ atThirteen.maxAtt = some 3 ∧
      tagOf 0xD4 = atThirteen.expect ∧ atThirteen.expect.toNat ≤ 13 :=
  ⟨inv_atThirteen, by decide⟩

theorem witness_ByteTransitionTable_complete :
    Invariants atFourteen ∧ atFourteen.phase = .hunt ∧ atFourteen.maxAtt = some 3 ∧
      tagOf 0xE0 = atFourteen.expect ∧ atFourteen.expect = 14 :=
  ⟨inv_atFourteen, by decide⟩

theorem witness_ByteTransitionTable_exhaust :
    (Invariants atLimit ∧ atLimit.phase = .hunt ∧ atLimit.maxAtt = some 2 ∧ tagOf 0x14 ≠ atLimit.expect ∧
        2 ≤ atLimit.discards + 1) ∧
      (Invariants atZero ∧ atZero.phase = .hunt ∧ atZero.maxAtt = some 0 ∧ tagOf 0x21 ≠ atZero.expect ∧
        0 ≤ atZero.discards + 1) :=
  ⟨⟨inv_atLimit, by decide⟩, inv_atZero, by decide⟩

theorem witness_ByteTransitionTable_restart :
    Invariants atSix ∧ atSix.phase = .hunt ∧ atSix.maxAtt = some 3 ∧ atSix.discards + 1 < 3 ∧
      (tagOf 0x10 ≠ atSix.expect ∧ tagOf 0x10 = 1) ∧ tagOf 0x00 ≠ atSix.expect ∧ tagOf 0x00 ≠ 1 :=
  ⟨inv_atSix, by decide⟩

theorem witness_ExceptionSources :
    (Invariants atFourteen ∧ atFourteen.maxAtt = some 3 ∧
        ∃ t, exec (.pos14 0) atFourteen = .next t ∧ t.answer = .accepted (some (.frame F1 0))) ∧
      (Invariants atZero ∧ atZero.maxAtt = some 0 ∧
        ∃ t, exec (.tag0 0) atZero = .next t ∧ t.answer = .accepted (some (.syncError .attempts 1))) ∧
      (Invariants atSix ∧ atSix.maxAtt = some 3 ∧
        ∃ t, exec .timeout atSix = .next t ∧ t.answer = .accepted (some (.syncError .time 1))) ∧
      (Invariants atSix ∧ atSix.maxAtt = some 3 ∧
        ∃ t, exec .xfail atSix = .next t ∧ t.answer = .accepted (some (.transportError 1))) :=
  ⟨⟨inv_atFourteen, rfl, _, rfl, rfl⟩, ⟨inv_atZero, rfl, _, rfl, rfl⟩, ⟨inv_atSix, rfl, _, rfl, rfl⟩,
    inv_atSix, rfl, _, rfl, rfl⟩

theorem witness_ExceptionsOnlyInHunt :
    ∃ t, exec .timeout atSix = .next t ∧ t.answer = .accepted (some (.syncError .time 1)) := ⟨_, rfl, rfl⟩

theorem witness_OutcomeAgreesWithRegisters :
    (∃ t, exec (.pos14 0) atFourteen = .next t ∧ t.answer = .accepted (some (.frame F1 0))) ∧
      (∃ t, exec (.pos1 4) atLimit = .next t ∧ t.answer = .accepted (some (.syncError .attempts 2))) ∧
      (∃ t, exec .timeout atOne = .next t ∧ t.answer = .accepted (some (.syncError .time 0))) ∧
      ∃ t, exec .xfail atOne = .next t ∧ t.answer = .accepted (some (.transportError 0)) :=
  ⟨⟨_, rfl, rfl⟩, ⟨_, rfl, rfl⟩, ⟨_, rfl, rfl⟩, _, rfl, rfl⟩

theorem witness_CaptureEndsExactlyWithDone :
    (Instr.timeout ≠ .reset ∧ ∃ t, exec .timeout atOne = .next t ∧ done t = true) ∧
      Instr.timeout ≠ .reset ∧ ∃ t, exec .timeout afterF1 = .next t ∧ done t = false :=
  ⟨⟨by decide, _, rfl, rfl⟩, by decide, _, rfl, rfl⟩

theorem witness_RegisterWriters :
    (∃ t, exec (.start 5) afterF1 = .next t ∧ t.maxAtt ≠ afterF1.maxAtt ∧ t.outFrame ≠ afterF1.outFrame) ∧
      ∃ t, exec .xfail atOne = .next t ∧ t.result ≠ atOne.result :=
  ⟨⟨_, rfl, by decide, by decide⟩, _, rfl, by decide⟩

theorem witness_StepKeepsInvariants :
    Invariants { atOne with input := [byteWord 0x14] } ∧
      ∃ t, step { atOne with input := [byteWord 0x14] } = .next t :=
  ⟨by constructor <;> decide, _, rfl⟩

theorem witness_StepKeepsFlagSetsCanonical :
    { atOne with input := [.flagNibble .p13 0xF] }.work.flags.Canonical ∧
      ∃ t, step { atOne with input := [.flagNibble .p13 0xF] } = .next t :=
  ⟨by constructor <;> decide, _, rfl⟩

theorem witness_EveryEnabledEventHasAnswer :
    (Invariants afterTimeout ∧ (Instr.start 255).wf afterTimeout.config = true) ∧
      2 ^ afterTimeout.config.attW ≤ 256 ∧ Invariants { afterTimeout with input := [.pin 0] } :=
  ⟨⟨inv_afterTimeout, by decide⟩, by decide, by constructor <;> decide⟩

theorem witness_CountersFitTheirWidth :
    State.reset.config.widthOk = true ∧ Invariants { State.reset with input := [encode (.start 255)] } ∧
      ∃ t, step { State.reset with input := [encode (.start 255)] } = .next t ∧ t.maxAtt = some 255 :=
  ⟨by decide, by constructor <;> decide, _, rfl, rfl⟩

theorem witness_DecodeOperationsKeepRegisters :
    (∃ t, exec .seg0 atSix = .next t) ∧ (∀ m, Instr.seg0 ≠ .start m) ∧ Instr.seg0 ≠ .timeout ∧
      Instr.seg0 ≠ .xfail ∧ Instr.seg0 ≠ .reset ∧ ∀ b : Byte, Instr.seg0 ≠ decodeByte b :=
  ⟨⟨_, rfl⟩, by simp, by decide, by decide, by decide, by decide⟩

/-- `atOne` with another workspace and other tables. -/
def otherWork : State :=
  { atOne with
    config := otherTable
    input := [byteWord 0x14]
    work := { DecodeWork.empty with seg := some (0, none) } }

theorem witness_SynchronizerIgnoresDecodedFields :
    { atOne with input := [byteWord 0x14] }.registers = otherWork.registers ∧
      { atOne with input := [byteWord 0x14] }.input = otherWork.input ∧
      { atOne with input := [byteWord 0x14] }.config.attW = otherWork.config.attW ∧
      { atOne with input := [byteWord 0x14] }.config ≠ otherWork.config ∧
      ∃ t, step { atOne with input := [byteWord 0x14] } = .next t :=
  ⟨by decide, by decide, by decide, by decide, _, rfl⟩

theorem witness_StartForgetsThePast :
    afterF1.phase = .idle ∧ State.reset.phase = .idle ∧ afterF1.input = State.reset.input ∧
      afterF1.config = State.reset.config ∧ afterF1 ≠ State.reset ∧ ∃ t, exec (.start 5) afterF1 = .next t :=
  ⟨rfl, rfl, rfl, rfl, by decide, _, rfl⟩

theorem witness_CleanFrameIsCaptured :
    F1.tagged ∧ ∃ s : State, s.phase = .idle ∧ 0 < 2 ^ s.config.attW ∧
      s.input = encode (.start 0) :: byteWords F1.toList ++ [.pin 1] :=
  ⟨by decide, { State.reset with input := encode (.start 0) :: byteWords F1.toList ++ [.pin 1] }, rfl, by decide, rfl⟩

/-- A state in `HUNT` with F2 offered next. -/
def beforeF2 (s : State) : State := { s with input := byteWords F2.toList ++ [] }

theorem witness_ResyncReturnsValidFrame_returns :
    F2.tagged ∧
      (Invariants (beforeF2 atOne) ∧ (beforeF2 atOne).phase = .hunt ∧ (beforeF2 atOne).maxAtt = some 3 ∧
        (beforeF2 atOne).input = byteWords F2.toList ++ [] ∧ (beforeF2 atOne).expect = 1 ∧
        (beforeF2 atOne).discards < 3) ∧
      (Invariants (beforeF2 atSix) ∧ (beforeF2 atSix).phase = .hunt ∧ (beforeF2 atSix).maxAtt = some 3 ∧
        (beforeF2 atSix).expect ≠ 1 ∧ (beforeF2 atSix).discards + 1 < 3) :=
  ⟨by decide, ⟨by constructor <;> decide, rfl, rfl, rfl, rfl, by decide⟩, by constructor <;> decide, rfl, rfl,
    by decide, by decide⟩

theorem witness_ResyncReturnsValidFrame_limit :
    F2.tagged ∧ Invariants (beforeF2 atLimit) ∧ (beforeF2 atLimit).phase = .hunt ∧
      (beforeF2 atLimit).maxAtt = some 2 ∧ (beforeF2 atLimit).input = byteWords F2.toList ++ [] ∧
      (beforeF2 atLimit).expect ≠ 1 ∧ 1 ≤ (beforeF2 atLimit).discards + 1 ∧
      2 ≤ (beforeF2 atLimit).discards + 1 :=
  ⟨by decide, by constructor <;> decide, rfl, rfl, rfl, by decide, by decide, by decide⟩

theorem witness_SlotOperationsWriteTheirSlot :
    atOne.config.segTable ((0xA : Nibble).extractLsb' 0 3 ++ (0x7 : Nibble)) = some (.digit 4) ∧
      atOne.config.segTable ((0x1 : Nibble).extractLsb' 0 3 ++ (0x1 : Nibble)) = none := by decide

theorem witness_DecodeOperationsDecodeTheFrame :
    { atOne with input := decodeOps F6 ++ [] }.input = decodeOps F6 ++ [] ∧
      { atOne with input := decodeOps F6 ++ [] }.work = DecodeWork.empty := ⟨rfl, rfl⟩

theorem witness_NumericMantissaAndExponent :
    (assemble (decodeFrame referenceConfig F9) 0).numeric = some ⟨false, 1, -12⟩ ∧
      referenceConfig.segTable (F9.slotKeyOf .s1) = some (.digit 0) ∧
      referenceConfig.segTable (F9.slotKeyOf .s2) = some (.digit 0) ∧
      referenceConfig.segTable (F9.slotKeyOf .s3) = some (.digit 0) ∧
      referenceConfig.segTable (F9.slotKeyOf .s4) = some (.digit 1) := by decide

theorem witness_NumericIsParsedRawVal : (readingOf referenceConfig F1 0).numeric = some ⟨true, 4900, -6⟩ := by decide

/-- F6 without its reserved flag. -/
def F6plain : Frame := { F6 with f14 := 0xE0 }

theorem witness_ReservedBitsInfluenceNothing :
    F6 ≠ F6plain ∧ (∀ s : SlotNo, F6.slotWord s = F6plain.slotWord s) ∧
      ∀ (p : FlagPos) (j : Fin 4), referenceConfig.flagTable p j ≠ .reserved → F6.flagSet p j = F6plain.flagSet p j := by
  refine ⟨by decide, fun s => by cases s <;> rfl, fun p => by cases p <;> decide⟩

theorem witness_DisplayRoundTrip : referenceConfig.segOk = true := by decide

theorem witness_ReferenceTablesAdmissible :
    referenceConfig.segTable 0x7D ≠ none ∧ referenceConfig.segTable 0x7D = referenceConfig.segTable 0x7D := by decide

theorem witness_HostReadsNeverInvent :
    afterTimeout.result ≠ .ok ∧ State.reset.result = .none ∧ (Invariants afterF1 ∧ afterF1.result = .ok) ∧
      Invariants afterTimeout ∧ afterTimeout.result ≠ .none :=
  ⟨by decide, rfl, ⟨inv_afterF1, rfl⟩, inv_afterTimeout, by decide⟩

theorem witness_WorkspaceFollowsLatch :
    (∃ t, exec .reset atSix = .next t) ∧ (∃ t, exec (.start 5) afterF1 = .next t) ∧
      (∃ t, exec (.start 5) atSix = .next t) ∧ (∃ t, exec .timeout atSix = .next t) ∧
      (∃ t, exec (.pos14 0) atFourteen = .next t ∧ t.answer = .accepted (some (.frame F1 0))) ∧
      ∃ t, exec (decodeByte 0x00) atZero = .next t ∧ ∀ F n, t.answer ≠ .accepted (some (.frame F n)) :=
  ⟨⟨_, rfl⟩, ⟨_, rfl⟩, ⟨_, rfl⟩, ⟨_, rfl⟩, ⟨_, rfl, rfl⟩, _, rfl, fun _ _ h => by cases h⟩

theorem witness_TransportBeatsByte : atSix.phase = .hunt ∧ atSix.input = [] := by decide

theorem witness_ConfigurationIsConstant :
    (∃ t, exec .reset otherWork = .next t) ∧ ∃ t, step otherWork = .next t := ⟨⟨_, rfl⟩, _, rfl⟩

theorem witness_SetsInHardwareForm :
    referenceConfig.wf = true ∧ otherTable.wf = true ∧ 6 < (unitIds otherTable).length ∧
      3 < (modeIds otherTable).length ∧ 3 < (reservedIds otherTable).length := by decide

theorem witness_HostCallsAsEvents :
    (255 < 2 ^ State.reset.config.attW ∧
        { State.reset with input := openEvents 255 ++ [PortWord.pin 0] }.input = openEvents 255 ++ [PortWord.pin 0]) ∧
      afterF1.phase = .idle ∧ (⟨3, 0⟩ : Session).retries < 2 ^ afterF1.config.attW ∧
        { afterF1 with input := readEvents ⟨3, 0⟩ ++ [] }.input = readEvents ⟨3, 0⟩ ++ [] :=
  ⟨⟨by decide, rfl⟩, rfl, by decide, rfl⟩

end Sys2Proof.Tests
end

section
/-! PROOFS, the family of the state: the host's reads of the ports (spec/10_state.md R37), one rule per read and case,
and the values the invariants of R29 guarantee them. -/

namespace Sys2Proof.Machine

/-- I5: the latch has a value while `result = OK`. -/
theorem Invariants.exists_outFrame {s : State} (h : Invariants s) (hr : s.result = .ok) :
    ∃ F, s.outFrame = some F :=
  Option.isSome_iff_exists.mp (h.i5.1.mp hr)

/-- I6: the count has a value once a capture has ended. -/
theorem Invariants.exists_outCount {s : State} (h : Invariants s) (hr : s.result ≠ .none) :
    ∃ n, s.outCount = some n :=
  Option.isSome_iff_exists.mp (h.i6.1.mp hr)

theorem readOutFrame_of_ne_ok {s : State} (hr : s.result ≠ .ok) :
    readOutFrame s = .error (.noValue .outFrame) := by
  unfold readOutFrame
  split
  · exact absurd ‹s.result = .ok› hr
  · rfl

theorem readOutFrame_of_ok {s : State} {F : Frame} (hr : s.result = .ok) (hF : s.outFrame = some F) :
    readOutFrame s = .ok F := by
  simp only [readOutFrame, hr, hF]

theorem readOutCount_of_none {s : State} (hr : s.result = .none) :
    readOutCount s = .error (.noValue .outCount) := by
  simp only [readOutCount, hr]

theorem readOutCount_of_ne_none {s : State} {n : Nat} (hr : s.result ≠ .none) (hn : s.outCount = some n) :
    readOutCount s = .ok n := by
  unfold readOutCount
  rw [hn]
  cases hres : s.result with
  | none => exact absurd hres hr
  | ok | errSyncAttempts | errSyncTime | errTransport => rfl

theorem readReading_of_ne_ok {s : State} (hr : s.result ≠ .ok) :
    readReading s = .error (.noValue .decoded) := by
  unfold readReading
  split
  · exact absurd ‹s.result = .ok› hr
  · rfl

theorem readReading_of_ok {s : State} {F : Frame} {n : Nat} (hr : s.result = .ok) (hF : s.outFrame = some F)
    (hn : s.outCount = some n) : readReading s = .ok (readingOf s.config F n) := by
  simp only [readReading, hr, hF, hn]

/-- Settles O51: a read faults by its own test of `result`, and I5 and I6 give the value where it does not. -/
theorem hostReadsNeverInvent : Obligations.HostReadsNeverInvent := by
  refine ⟨fun s hr => ⟨readOutFrame_of_ne_ok hr, readReading_of_ne_ok hr⟩, fun s => readOutCount_of_none,
    fun s hs hr => ?_, fun s hs hr => ?_⟩
  · have hne : s.result ≠ .none := by simp [hr]
    obtain ⟨F, hF⟩ := hs.exists_outFrame hr
    obtain ⟨n, hn⟩ := hs.exists_outCount hne
    exact ⟨F, n, hF, hn, readOutFrame_of_ok hr hF, readOutCount_of_ne_none hne hn, readReading_of_ok hr hF hn⟩
  · obtain ⟨n, hn⟩ := hs.exists_outCount hr
    exact ⟨n, hn, readOutCount_of_ne_none hr hn⟩

/-- Settles O1: `State.reset` is written with the values of R35. -/
theorem resetStateValues : Obligations.ResetStateValues := rfl

end Sys2Proof.Machine
end

section
/-! PROOFS, the family of the encoding: what an input word of each kind decodes to (spec/30_encoding.md R81). -/

namespace Sys2Proof

@[simp] theorem decode_startWord (m : BitVec 8) : decode (.iw (inputWordOf 1#2 m)) = .ok (.start m.toNat) := by
  simp [decode, decodeInputWord]

@[simp] theorem decode_timeoutWord (x : BitVec 8) : decode (.iw (inputWordOf 2#2 x)) = .ok .timeout := by
  simp [decode, decodeInputWord]

@[simp] theorem decode_xfailWord (x : BitVec 8) : decode (.iw (inputWordOf 3#2 x)) = .ok .xfail := by
  simp [decode, decodeInputWord]

/-- Settles O7: one lemma per kind; `decode` answers every input word by `decodeInputWord`, which cannot fail. -/
theorem inputWordsDecodeTotally : Obligations.InputWordsDecodeTotally :=
  ⟨fun b => ⟨dataOf b, decode_byte b, (byteOf_tag_data b).symm⟩, decode_startWord, decode_timeoutWord,
    decode_xfailWord, fun w => ⟨decodeInputWord w, rfl⟩, inputWordOf_fields⟩

end Sys2Proof
end

section
/-! PROOFS, the family of the control operations: an asynchronous source by phase, then `START`, `TIMEOUT` and `XFAIL`
(spec/40_sync_control.md R121 to R123, R126). -/

namespace Sys2Proof.Machine

theorem exec_start (m : Nat) (s : State) : exec (.start m) s = execStart m s := rfl

theorem exec_timeout (s : State) : exec .timeout s = asyncEvent .syncTime s := rfl

theorem exec_xfail (s : State) : exec .xfail s = asyncEvent .transport s := rfl

/-- Taking an exception is the end of the capture as R122, R123 and R143 write it, with the discards as they stand. -/
theorem raiseExc_eq_endedBy (e : Exc) (s : State) :
    raiseExc e s = endedBy e.code e.outcome s.discards s := rfl

theorem asyncEvent_hunt {e : Exc} {s : State} (hp : s.phase = .hunt) :
    asyncEvent e s = .next (endedBy e.code e.outcome s.discards s) := by
  simp only [asyncEvent, hp, raiseExc_eq_endedBy]

theorem asyncEvent_idle {e : Exc} {s : State} (hp : s.phase = .idle) :
    asyncEvent e s = .next (ignored s) := by
  simp only [asyncEvent, hp]

/-- Settles O9: by phase; the capture starts from an empty workspace. -/
theorem startBeginsCapture : Obligations.StartBeginsCapture := by
  refine ⟨decode_startWord, fun m s hm => ⟨fun hp => ⟨DecodeWork.empty, ?_⟩, fun hp => ?_⟩⟩
  · rw [exec_start, execStart_idle hm hp, startCapture]
  · rw [exec_start, execStart_hunt hm hp, ignored]

/-- Settles O10: `TIMEOUT` is the asynchronous source of `SyncError(TIME, discards)`. -/
theorem timeoutEndsCapture : Obligations.TimeoutEndsCapture := by
  refine ⟨decode_timeoutWord, fun s => ⟨fun hp => ?_, fun hp => ?_⟩⟩
  · exact (exec_timeout s).trans (asyncEvent_hunt hp)
  · exact (exec_timeout s).trans (asyncEvent_idle hp)

/-- Settles O11: `XFAIL` is the asynchronous source of `TransportError(discards)`. -/
theorem xfailEndsCapture : Obligations.XfailEndsCapture := by
  refine ⟨decode_xfailWord, fun s => ⟨fun hp => ?_, fun hp => ?_⟩⟩
  · exact (exec_xfail s).trans (asyncEvent_hunt hp)
  · exact (exec_xfail s).trans (asyncEvent_idle hp)

end Sys2Proof.Machine
end

section
/-! PROOFS, the family of the byte operations: what a mismatch does to the byte (spec/41_sync_bytes.md R143, R145), the
rule of one inner position (R148 to R159), then `POS1`, `POS14` and the two tags that are no position. -/

namespace Sys2Proof.Machine

/-- `MISMATCH(b)` that reaches the limit is the end of the capture as R143 writes it, with the discard counted. -/
theorem mismatch_ends {b : Byte} {s : State} {m : Nat} (hm : s.maxAtt = some m) (hl : m ≤ s.discards + 1) :
    mismatch b s = .next (endedBy .errSyncAttempts (.syncError .attempts) (s.discards + 1) s) :=
  mismatch_exhausts hm hl

/-- An operation that mismatches with a byte that cannot begin a frame skips the byte. -/
theorem skipsByte_of_mismatch {i : Instr} {b : Byte} {s : State} {m : Nat} (hi : exec i s = mismatch b s)
    (hb : tagOf b ≠ 1) (hm : s.maxAtt = some m) : SkipsByte i s m := by
  refine ⟨fun hl => ?_, fun hl => ?_⟩
  · rw [hi, mismatch_restart hm hl, restart_skip hb, discard]
  · rw [hi, mismatch_ends hm hl]

/-- A `BYTE` operation away from its own position skips its byte, unless the byte is a `POS1`. -/
theorem skipsByte_of_byteEvent {i : Instr} {k d : Nibble} {s : State} {m : Nat}
    (hi : exec i s = byteEvent (byteOf k d) s) (hk : k ≠ 1) (hp : s.phase = .hunt) (hm : s.maxAtt = some m)
    (hx : s.expect ≠ k) : SkipsByte i s m :=
  have htag : tagOf (byteOf k d) = k := tagOf_byteOf k d
  skipsByte_of_mismatch (hi.trans (byteEvent_mismatches hp (htag.trans_ne hx.symm))) (htag.trans_ne hk) hm

/-- An operation that is the `BYTE` event of an inner position keeps that position's rule. -/
theorem positionRule_of_byteEvent {k next : Nibble} {op : Nibble → Instr}
    (hdec : ∀ d, decode (.iw (inputWordOf 0 (byteOf k d))) = .ok (op d))
    (hexec : ∀ d s, exec (op d) s = byteEvent (byteOf k d) s)
    (hk : k ≠ 1 ∧ k ≠ 14 ∧ k + 1 = next := by decide) : PositionRule k next op := by
  obtain ⟨hk1, hk14, hnext⟩ := hk
  refine fun d s hp => ⟨hdec d, fun hx => ?_, fun m hm hx => skipsByte_of_byteEvent (hexec d s) hk1 hp hm hx⟩
  have ht : tagOf (byteOf k d) = s.expect := (tagOf_byteOf k d).trans hx.symm
  rw [hexec, byteEvent_accepts hp ht (hx ▸ hk14), accept, append, hx, hnext]

/-- Settles O15: each of the twelve is the `BYTE` event of its own tag, an inner position. -/
theorem innerPositionBytesRule : Obligations.InnerPositionBytesRule :=
  ⟨positionRule_of_byteEvent Laws.RoundTrip.pos2 fun _ _ => rfl,
    positionRule_of_byteEvent Laws.RoundTrip.pos3 fun _ _ => rfl,
    positionRule_of_byteEvent Laws.RoundTrip.pos4 fun _ _ => rfl,
    positionRule_of_byteEvent Laws.RoundTrip.pos5 fun _ _ => rfl,
    positionRule_of_byteEvent Laws.RoundTrip.pos6 fun _ _ => rfl,
    positionRule_of_byteEvent Laws.RoundTrip.pos7 fun _ _ => rfl,
    positionRule_of_byteEvent Laws.RoundTrip.pos8 fun _ _ => rfl,
    positionRule_of_byteEvent Laws.RoundTrip.pos9 fun _ _ => rfl,
    positionRule_of_byteEvent Laws.RoundTrip.pos10 fun _ _ => rfl,
    positionRule_of_byteEvent Laws.RoundTrip.pos11 fun _ _ => rfl,
    positionRule_of_byteEvent Laws.RoundTrip.pos12 fun _ _ => rfl,
    positionRule_of_byteEvent Laws.RoundTrip.pos13 fun _ _ => rfl⟩

theorem exec_pos1 (d : Nibble) (s : State) : exec (.pos1 d) s = byteEvent (byteOf 1 d) s := rfl

theorem exec_pos14 (d : Nibble) (s : State) : exec (.pos14 d) s = byteEvent (byteOf 14 d) s := rfl

theorem exec_tag0 (d : Nibble) (s : State) : exec (.tag0 d) s = strayByte (byteOf 0 d) s := rfl

theorem exec_tag15 (d : Nibble) (s : State) : exec (.tag15 d) s = strayByte (byteOf 15 d) s := rfl

/-- Settles O14: at `expect` 1 the buffer is empty by I2, and after a mismatch below the limit it is emptied, so that
the byte is its first in both cases. -/
theorem pos1Rule : Obligations.Pos1Rule := by
  intro d s h2 hp
  have htag : tagOf (byteOf 1 d) = 1 := tagOf_byteOf 1 d
  refine ⟨Laws.RoundTrip.pos1 d, fun hx => ?_, fun m hm hx => ?_⟩
  · have hlen : s.cur.length + 1 = 1 := by rw [h2.1, hx]; rfl
    have hcur : s.cur = [] := List.length_eq_zero_iff.mp (Nat.succ.inj hlen)
    rw [exec_pos1, byteEvent_accepts hp (htag.trans hx.symm) (by simp [hx]), accept, append, hcur, hx]
    rfl
  · have hmis : exec (.pos1 d) s = mismatch (byteOf 1 d) s := byteEvent_mismatches hp (htag.trans_ne hx.symm)
    refine ⟨fun hl => ?_, fun hl => ?_⟩
    · rw [hmis, mismatch_restart hm hl, restart_candidate htag]
      rfl
    · rw [hmis, mismatch_ends hm hl]

theorem restart_answer (b : Byte) (s : State) : (restart b s).answer = .accepted none := by
  unfold restart
  split <;> rfl

/-- The inversion of a frame outcome: of all effects only a completion answers one. -/
theorem Effect.tag_of_frame {i : Instr} {s t : State} {F : Frame} {n : Nat} (h : Effect i s t)
    (ht : t.answer = .accepted (some (.frame F n))) : ∃ b, i = decodeByte b ∧ tagOf b = 14 := by
  cases h with
  | completes b _ hi _ htag _ _ => exact ⟨b, hi, htag⟩
  | quiet a ha => obtain rfl | rfl := ha <;> cases ht
  | restarted b m _ _ _ _ => rw [restart_answer] at ht; cases ht
  | decoded | reset | start | timedOut | failed | accepted | exhausted => cases ht

theorem decodeByte_of_tag_14 {b : Byte} (h : tagOf b = 14) : decodeByte b = .pos14 (dataOf b) := by
  simp [decodeByte, h]

/-- Settles O16: at `expect` 14 the byte's own tag completes, elsewhere the byte is skipped; and a frame outcome comes
from a completion, whose byte has tag 14. -/
theorem pos14Rule : Obligations.Pos14Rule := by
  refine ⟨fun d s hp => ⟨Laws.RoundTrip.pos14 d, fun F hx hF => ⟨DecodeWork.empty, ?_⟩,
    fun m hm hx => skipsByte_of_byteEvent (exec_pos14 d s) (by decide) hp hm hx⟩, fun i s t F n h ht => ?_⟩
  · have htag : tagOf (byteOf 14 d) = s.expect := (tagOf_byteOf 14 d).trans hx.symm
    rw [exec_pos14, byteEvent_completes hp htag hx, complete_eq hF, completed, endCapture]
  · obtain ⟨b, rfl, hb⟩ := (exec_effect h).tag_of_frame ht
    exact ⟨dataOf b, decodeByte_of_tag_14 hb⟩

/-- Settles O17: a stray byte in `HUNT` is a mismatch whatever `expect` is, and its tag is not 1. -/
theorem strayTagRule : Obligations.StrayTagRule := by
  intro d s m hp hm
  refine ⟨Laws.RoundTrip.tag0 d, Laws.RoundTrip.tag15 d, ?_, ?_⟩
  · exact skipsByte_of_mismatch ((exec_tag0 d s).trans (strayByte_hunt hp)) (by simp) hm
  · exact skipsByte_of_mismatch ((exec_tag15 d s).trans (strayByte_hunt hp)) (by simp) hm

end Sys2Proof.Machine
end

section
/-! PROOFS, the family of the digits: the flag bit of a frame's slot, and `dp` from the three decimal-point bits
(spec/42_decode_digits.md R171, R177, R178). -/

namespace Sys2Proof.Machine

/-- A failed look-up leaves the flag bit as it is (R171, R172). -/
@[simp] theorem slotOut_fb (c : Config) (fb : Bool) (key : SegKey) : (slotOut c fb key).fb = fb := by
  unfold slotOut
  split <;> rfl

/-- `fb_s` is bit 3 of the slot's first nibble, which is the high half of the slot word (R84, R171). -/
theorem frameSlot_fb (c : Config) (F : Frame) (s : SlotNo) :
    (frameSlot c F s).fb = (F.slotNibbles s).1.getLsbD 3 := by
  rw [frameSlot, slotOut_fb, Frame.slotFb, slotFlag, Frame.slotWord, BitVec.getLsbD_append]
  rfl

theorem dpOf_eq_some_one_iff (b2 b3 b4 : Bool) : dpOf b2 b3 b4 = some 1 ↔ dpCount b2 b3 b4 = 1 ∧ b2 = true := by
  revert b2 b3 b4; decide

theorem dpOf_eq_some_two_iff (b2 b3 b4 : Bool) : dpOf b2 b3 b4 = some 2 ↔ dpCount b2 b3 b4 = 1 ∧ b3 = true := by
  revert b2 b3 b4; decide

theorem dpOf_eq_some_three_iff (b2 b3 b4 : Bool) : dpOf b2 b3 b4 = some 3 ↔ dpCount b2 b3 b4 = 1 ∧ b4 = true := by
  revert b2 b3 b4; decide

theorem dpOf_eq_none_iff (b2 b3 b4 : Bool) : dpOf b2 b3 b4 = none ↔ dpCount b2 b3 b4 = 0 ∨ 2 ≤ dpCount b2 b3 b4 := by
  revert b2 b3 b4; decide

/-- Settles O40: the sign and the points are the flag bits of the four slots, and `dp` is `dpOf` of the points. -/
theorem signAndDecimalPointBits : Obligations.SignAndDecimalPointBits := fun c F =>
  ⟨frameSlot_fb c F .s1, frameSlot_fb c F .s2, frameSlot_fb c F .s3, frameSlot_fb c F .s4, rfl,
    dpOf_eq_some_one_iff _ _ _, dpOf_eq_some_two_iff _ _ _, dpOf_eq_some_three_iff _ _ _, dpOf_eq_none_iff _ _ _⟩

end Sys2Proof.Machine
end

section
/-! PROOFS, the family of the flags: a frame's FlagSet is what its six flag bytes add to the empty sets, identities
and raw bits alike (spec/43_decode_flags.md R200, R202, R212). -/

namespace Sys2Proof.Machine

theorem not_has_empty (x : FlagId) : ¬ FlagSet.empty.has x := by
  cases x <;> exact List.not_mem_nil

/-- The positions in arrival order, in which a frame's flag bytes are matched. -/
theorem exists_flagPos_iff {P : FlagPos → Prop} :
    (∃ p, P p) ↔ P .p1 ∨ P .p10 ∨ P .p11 ∨ P .p12 ∨ P .p13 ∨ P .p14 := by
  constructor
  · rintro ⟨p, h⟩
    cases p <;> simp only [h, true_or, or_true]
  · rintro (h | h | h | h | h | h) <;> exact ⟨_, h⟩

/-- Each flag byte adds the identities of its set bits, and the matching starts from none (R200, R202). -/
theorem has_frameFlags (c : Config) (F : Frame) (x : FlagId) :
    (frameFlags c F).has x ↔
      ∃ (p : FlagPos) (j : Fin 4), F.flagSet p j = true ∧ x = identityAt (c.flagTable p j) p j := by
  simp only [frameFlags, has_matchNibble, not_has_empty, false_or, or_assoc, exists_flagPos_iff, Frame.flagSet]

/-- The raw nibbles that the six flag bytes add lie side by side, so their union is their concatenation (R212). -/
theorem frameFlags_rawFlags (c : Config) (F : Frame) :
    (frameFlags c F).rawFlags =
      dataOf F.f1 ++ dataOf F.f10 ++ dataOf F.f11 ++ dataOf F.f12 ++ dataOf F.f13 ++ dataOf F.f14 := by
  have union : (frameFlags c F).rawFlags =
      (dataOf F.f1).zeroExtend 24 <<< 20 ||| (dataOf F.f10).zeroExtend 24 <<< 16 |||
        (dataOf F.f11).zeroExtend 24 <<< 12 ||| (dataOf F.f12).zeroExtend 24 <<< 8 |||
        (dataOf F.f13).zeroExtend 24 <<< 4 ||| (dataOf F.f14).zeroExtend 24 := by
    simp [frameFlags, matchNibble_rawFlags, posIndex, Frame.flagNibbleOf, FlagSet.empty]
  rw [union, eq_comm, ← BitVec.setWidth_eq (_ ++ _)]
  simp only [BitVec.setWidth_append_eq_shiftLeft_setWidth_or, BitVec.shiftLeft_or_distrib, ← BitVec.shiftLeft_add]

/-- Settles O47: the decoded FlagSet is `frameFlags`, whose members and raw bits are those of the set flag bits. -/
theorem frameFlagSetIsTheSetBits : Obligations.FrameFlagSetIsTheSetBits := fun c F =>
  ⟨has_frameFlags c F, frameFlags_rawFlags c F⟩

end Sys2Proof.Machine
end

section
/-! PROOFS, the family of the Value Assembler: the four sanity checks, `rawVal`, the presence of the numeric value, and
the fields read off the FlagSet (spec/44_assemble_sanity.md R231 to R243). -/

namespace Sys2Proof.Machine

theorem forall_slotNo_iff {P : SlotNo → Prop} : (∀ s, P s) ↔ P .s1 ∧ P .s2 ∧ P .s3 ∧ P .s4 := by
  constructor
  · exact fun h => ⟨h .s1, h .s2, h .s3, h .s4⟩
  · rintro ⟨h1, h2, h3, h4⟩ (_ | _ | _ | _)
    · exact h1
    · exact h2
    · exact h3
    · exact h4

/-- A slot is valid when its key has an entry (R172). -/
theorem frameSlot_valid (c : Config) (F : Frame) (s : SlotNo) :
    (frameSlot c F s).valid = (c.segTable (F.slotKeyOf s)).isSome := by
  unfold frameSlot slotOut segRead
  cases c.segTable (F.slotKeyOf s) <;> rfl

/-- A slot's character has a digit value when its key shows a digit (R172, R235). -/
theorem isSome_digitValue_frameSlot_iff (c : Config) (F : Frame) (s : SlotNo) :
    (digitValue (frameSlot c F s).ch).isSome = true ↔
      ∃ k : Fin 10, c.segTable (F.slotKeyOf s) = some (.digit k) := by
  unfold frameSlot slotOut segRead
  cases c.segTable (F.slotKeyOf s) with
  | none => simp [digitValue]
  | some ch => cases ch <;> simp [digitValue]

theorem multiDp_eq_true_iff (f : Fields) :
    multiDp f = true ↔ 2 ≤ f.digits.dpbit2.toNat + f.digits.dpbit3.toNat + f.digits.dpbit4.toNat :=
  decide_eq_true_iff

theorem multiDp_eq_false_iff (f : Fields) :
    multiDp f = false ↔ f.digits.dpbit2.toNat + f.digits.dpbit3.toNat + f.digits.dpbit4.toNat ≤ 1 :=
  decide_eq_false_iff_not.trans (Nat.not_le.trans Nat.lt_succ_iff)

/-- `bad_seg` on a frame: some slot's key has no entry (R231). -/
theorem badSeg_decodeFrame_iff (c : Config) (F : Frame) :
    badSeg (decodeFrame c F) = true ↔ ∃ s : SlotNo, c.segTable (F.slotKeyOf s) = none := by
  have allValid : badSeg (decodeFrame c F) = false ↔ ∀ s : SlotNo, (frameSlot c F s).valid = true := by
    simp only [badSeg, decodeFrame, digitsOf, forall_slotNo_iff, Bool.not_eq_false', Bool.and_eq_true, and_assoc]
  rw [← Bool.not_eq_false, allValid, not_forall]
  simp only [frameSlot_valid, Option.not_isSome_iff_eq_none]

/-- R232: which check each bit of `reason` reports. -/
theorem reasonOf_bits (f : Fields) :
    (reasonOf f).getLsbD 0 = multiDp f ∧ (reasonOf f).getLsbD 1 = multiScale f ∧
      (reasonOf f).getLsbD 2 = multiUnit f ∧ (reasonOf f).getLsbD 3 = badSeg f := by
  simp only [reasonOf, BitVec.getLsbD_append, BitVec.getLsbD_ofBool]
  simp

/-- No check fires exactly when all four bits of `reason` are clear (R231, R232). -/
theorem saneOf_eq_true_iff (f : Fields) : saneOf f = true ↔ reasonOf f = 0 := by
  unfold saneOf reasonOf
  generalize multiDp f = b0, multiScale f = b1, multiUnit f = b2, badSeg f = b3
  revert b0 b1 b2 b3
  decide

/-- Settles O41: each bit of `reason` is its check, and each check is the condition it is named after. -/
theorem sanityClassification : Obligations.SanityClassification := by
  intro c F n f r
  obtain ⟨hdp, hscale, hunit, hseg⟩ := reasonOf_bits f
  refine ⟨?_, ?_, ?_, ?_, saneOf_eq_true_iff f⟩
  · exact (Bool.eq_iff_iff.mp hdp).trans (multiDp_eq_true_iff f)
  · exact (Bool.eq_iff_iff.mp hscale).trans decide_eq_true_iff
  · exact (Bool.eq_iff_iff.mp hunit).trans decide_eq_true_iff
  · exact (Bool.eq_iff_iff.mp hseg).trans (badSeg_decodeFrame_iff c F)

/-- The mantissa is there when all four slots show a digit (R235 condition 1). -/
theorem isSome_mantissaOf_iff (c : Config) (F : Frame) :
    (mantissaOf (decodeFrame c F).digits).isSome = true ↔
      ∀ s : SlotNo, ∃ k : Fin 10, c.segTable (F.slotKeyOf s) = some (.digit k) := by
  simp only [← isSome_digitValue_frameSlot_iff, forall_slotNo_iff, mantissaOf, decodeFrame, digitsOf]
  split
  next h1 h2 h3 h4 => simp only [h1, h2, h3, h4, Option.isSome_some, and_self]
  next hnone =>
    refine iff_of_false (by simp) fun ⟨h1, h2, h3, h4⟩ => ?_
    exact hnone _ _ _ _ (Option.some_get h1).symm (Option.some_get h2).symm (Option.some_get h3).symm
      (Option.some_get h4).symm

theorem isSome_scaleExpOf_iff (l : List ScaleId) : (scaleExpOf l).isSome = true ↔ l.length ≤ 1 := by
  match l with
  | [] | [_] | _ :: _ :: _ => simp [scaleExpOf]

/-- The three conditions of R235, each of which alone makes the value absent when it fails. -/
theorem isSome_numericOf_iff (f : Fields) :
    (numericOf f).isSome = true ↔
      (mantissaOf f.digits).isSome = true ∧ multiDp f = false ∧ (scaleExpOf f.flags.scaleSet).isSome = true := by
  unfold numericOf
  split
  next m e hm he => cases multiDp f <;> simp [hm, he]
  next hnone =>
    refine iff_of_false (by simp) fun ⟨hm, _, he⟩ => ?_
    exact hnone _ _ (Option.some_get hm).symm (Option.some_get he).symm

/-- Settles O43: the numeric value asks for a mantissa, no second point and a scale exponent, and each of these is one
condition on the frame. -/
theorem numericPresence : Obligations.NumericPresence := fun c F _ =>
  (isSome_numericOf_iff _).trans <|
    and_congr (isSome_mantissaOf_iff c F) <| and_congr (multiDp_eq_false_iff _) (isSome_scaleExpOf_iff _)

theorem onlyMember_eq_some_iff {α : Type} (l : List α) (x : α) : onlyMember l = some x ↔ l = [x] := by
  match l with
  | [] | [_] | _ :: _ :: _ => simp [onlyMember]

theorem onlyMember_eq_none_iff {α : Type} (l : List α) : onlyMember l = none ↔ l = [] ∨ 2 ≤ l.length := by
  match l with
  | [] | [_] | _ :: _ :: _ => simp [onlyMember]

/-- The four cases of R241: `acdc` tells which of `AC` and `DC` are in the set. -/
theorem acdcOf_cases (l : List SubmodeId) :
    (acdcOf l = .ac ↔ .ac ∈ l ∧ .dc ∉ l) ∧ (acdcOf l = .dc ↔ .dc ∈ l ∧ .ac ∉ l) ∧
      (acdcOf l = .absent ↔ .ac ∉ l ∧ .dc ∉ l) ∧ (acdcOf l = .both ↔ .ac ∈ l ∧ .dc ∈ l) := by
  by_cases hac : SubmodeId.ac ∈ l <;> by_cases hdc : SubmodeId.dc ∈ l <;> simp [acdcOf, hac, hdc]

/-- The two bits of `acdc` are the two memberships, `DC` the higher (R241). -/
theorem acdcBits_acdcOf (l : List SubmodeId) :
    acdcBits (acdcOf l) = BitVec.ofBool (l.contains .dc) ++ BitVec.ofBool (l.contains .ac) := by
  unfold acdcOf
  cases l.contains .ac <;> cases l.contains .dc <;> rfl

/-- Settles O46: `measurement` and `scale` are the only member of their set, `acdc` by its four cases; the count is
stored and read nowhere else. -/
theorem fieldsReadOffTheFlagSet : Obligations.FieldsReadOffTheFlagSet := by
  intro c F n fs r
  obtain ⟨hac, hdc, habsent, hboth⟩ := acdcOf_cases fs.submodeSet
  exact ⟨onlyMember_eq_some_iff _, onlyMember_eq_none_iff _, onlyMember_eq_some_iff _, onlyMember_eq_none_iff _,
    hac, hdc, habsent, hboth, acdcBits_acdcOf _, List.contains_iff_mem, rfl, fun _ => rfl⟩

theorem length_onlyIf (b : Bool) (ch : Char) : (onlyIf b ch).length = b.toNat := by
  cases b <;> rfl

/-- The four glyphs, and one more character for the sign and for each point that is set (R234). -/
theorem length_rawValOf (d : Digits) :
    (rawValOf d).length = 4 + d.sign.toNat + d.dpCount := by
  simp only [rawValOf, List.length_append, List.length_singleton, length_onlyIf, Digits.dpCount, dpCount]
  omega

theorem glyph_digit (k : Fin 10) :
    glyph (.char (.digit k)) = ['0', '1', '2', '3', '4', '5', '6', '7', '8', '9'].get k := by
  revert k; decide

/-- Settles O42: the string is `rawValOf` regrouped, and its length is 4 and a bit each for the sign and the points. -/
theorem rawValIsTheDisplay : Obligations.RawValIsTheDisplay := by
  intro c F n d r
  have hlen : r.rawVal.length = 4 + d.sign.toNat + (d.dpbit2.toNat + d.dpbit3.toNat + d.dpbit4.toNat) :=
    length_rawValOf d
  have hsign := d.sign.toNat_le
  have hdp2 := d.dpbit2.toNat_le
  have hdp3 := d.dpbit3.toNat_le
  have hdp4 := d.dpbit4.toNat_le
  refine ⟨?_, by omega, by omega, glyph_digit, rfl, rfl, rfl⟩
  change rawValOf d = _
  simp only [rawValOf, onlyIf, List.append_assoc, List.cons_append, List.nil_append]

end Sys2Proof.Machine
end

section
/-! PROOFS, the family of the exceptions: the four ways a capture can end, each with its event, its outcome and the state
it leaves, and what the invariants of R29 say of the capture that ends (spec/60_exceptions.md R260, R261). -/

namespace Sys2Proof.Machine

/-- The end of a capture (R30, R260): the effects that answer an outcome, with that outcome. -/
inductive CaptureEnd (i : Instr) (s : State) : CaptureOutcome → State → Prop
  | frame (b : Byte) (F : Frame) (hi : i = decodeByte b) (hp : s.phase = .hunt) :
      CaptureEnd i s (.frame F s.discards) (completed F s)
  | attempts (b : Byte) (m : Nat) (hi : i = decodeByte b) (hp : s.phase = .hunt) (hm : s.maxAtt = some m)
      (hl : m ≤ s.discards + 1) :
      CaptureEnd i s (.syncError .attempts (s.discards + 1)) (raiseExc .syncAttempts (discard s))
  | time (hi : i = .timeout) (hp : s.phase = .hunt) :
      CaptureEnd i s (.syncError .time s.discards) (raiseExc .syncTime s)
  | transport (hi : i = .xfail) (hp : s.phase = .hunt) :
      CaptureEnd i s (.transportError s.discards) (raiseExc .transport s)

/-- The inversion of an outcome: an effect that answers one is the end of a capture by it. -/
theorem Effect.captureEnd {i : Instr} {s t : State} {o : CaptureOutcome} (h : Effect i s t)
    (ho : t.answer = .accepted (some o)) : CaptureEnd i s o t := by
  cases h with
  | completes b F hi hp _ _ _ => cases ho; exact .frame b F hi hp
  | exhausted b m hi hp hm hl => cases ho; exact .attempts b m hi hp hm hl
  | timedOut hi hp => cases ho; exact .time hi hp
  | failed hi hp => cases ho; exact .transport hi hp
  | quiet a ha => obtain rfl | rfl := ha <;> cases ho
  | restarted b m _ _ _ _ => rw [restart_answer] at ho; cases ho
  | decoded | reset | start | accepted => cases ho

/-- I4: no frame is latched while a capture runs. -/
theorem Invariants.outFrame_of_hunt {s : State} (h : Invariants s) (hp : s.phase = .hunt) : s.outFrame = none := by
  obtain ⟨_, hframe, _⟩ := h.i4 hp
  exact hframe

/-- I4: a running capture has not reached its limit. -/
theorem Invariants.discards_lt_limit {s : State} {m : Nat} (h : Invariants s) (hp : s.phase = .hunt)
    (hm : s.maxAtt = some m) : s.discards < max m 1 := by
  obtain ⟨_, _, _, _, hlt⟩ := h.i4 hp
  exact hlt m hm

/-- I4 has the discards below `max(m, 1)`, so one more that reaches `m` makes them exactly that. -/
theorem Invariants.exhausted_count {s : State} {m : Nat} (h : Invariants s) (hp : s.phase = .hunt)
    (hm : s.maxAtt = some m) (hl : m ≤ s.discards + 1) : s.discards + 1 = max m 1 := by
  have hlt := h.discards_lt_limit hp hm
  omega

/-- Settles O19: the outcome tells how the capture ended; `result` and the count are what that end writes, and I4 gives
the latch and the bound on the count. -/
theorem exceptionSources : Obligations.ExceptionSources := by
  refine ⟨rfl, rfl, rfl, rfl, fun i s t m hs hm h => ?_⟩
  have ended {o : CaptureOutcome} (ho : t.answer = .accepted (some o)) : CaptureEnd i s o t :=
    (exec_effect h).captureEnd ho
  refine ⟨fun F n ho => ?_, fun n ho => ?_, fun n ho => ?_, fun n ho => ?_⟩
  · cases ended ho with
    | frame => exact ⟨rfl, rfl, rfl, rfl⟩
  · cases ended ho with
    | attempts b m' hi hp hm' hl =>
      obtain rfl : m' = m := Option.some.inj (hm'.symm.trans hm)
      exact ⟨⟨b, hi⟩, rfl, rfl, hs.outFrame_of_hunt hp, hs.exhausted_count hp hm hl⟩
  · cases ended ho with
    | time hi hp => exact ⟨hi, rfl, rfl, hs.outFrame_of_hunt hp, rfl, hs.discards_lt_limit hp hm⟩
  · cases ended ho with
    | transport hi hp => exact ⟨hi, rfl, rfl, hs.outFrame_of_hunt hp, rfl, hs.discards_lt_limit hp hm⟩

end Sys2Proof.Machine
end

section
/-! PROOFS, the family of the reset: the `RESET` event ends in the block's reset state, whatever the state was
(spec/70_reset_and_hazards.md R290). -/

namespace Sys2Proof.Machine

theorem exec_reset (s : State) : exec .reset s = .next (resetBlock s) := rfl

/-- The reset block and the state after reset differ in the tables and the offers only, which are no registers (R35). -/
theorem resetBlock_registers (s : State) : (resetBlock s).registers = State.reset.registers := rfl

/-- Settles O2: `RESET` has no branch on the state; the next state is `resetBlock`, with the registers of R35. -/
theorem resetFromAnyState : Obligations.ResetFromAnyState :=
  ⟨Laws.RoundTrip.reset, fun s => ⟨resetBlock s, exec_reset s,
    (resetBlock_registers s).trans resetStateValues, resetBlock_answer s, resetBlock_input s⟩⟩

end Sys2Proof.Machine
end

section
/-! PROOFS, the decoder and the encoder against each other: each format's words read back from the operation they
decode to (spec/30_encoding.md R81, R84, R88, R98). -/

namespace Sys2Proof

/-- The decoder reads every encoded instruction back. -/
theorem decode_encode : ∀ i : Instr, decode (encode i) = .ok i
  | .tag0 d => Laws.RoundTrip.tag0 d
  | .pos1 d => Laws.RoundTrip.pos1 d
  | .pos2 d => Laws.RoundTrip.pos2 d
  | .pos3 d => Laws.RoundTrip.pos3 d
  | .pos4 d => Laws.RoundTrip.pos4 d
  | .pos5 d => Laws.RoundTrip.pos5 d
  | .pos6 d => Laws.RoundTrip.pos6 d
  | .pos7 d => Laws.RoundTrip.pos7 d
  | .pos8 d => Laws.RoundTrip.pos8 d
  | .pos9 d => Laws.RoundTrip.pos9 d
  | .pos10 d => Laws.RoundTrip.pos10 d
  | .pos11 d => Laws.RoundTrip.pos11 d
  | .pos12 d => Laws.RoundTrip.pos12 d
  | .pos13 d => Laws.RoundTrip.pos13 d
  | .pos14 d => Laws.RoundTrip.pos14 d
  | .tag15 d => Laws.RoundTrip.tag15 d
  | .start m => Laws.RoundTrip.start m
  | .slot1 fb key => Laws.RoundTrip.slot1 fb key
  | .slot2 fb key => Laws.RoundTrip.slot2 fb key
  | .slot3 fb key => Laws.RoundTrip.slot3 fb key
  | .slot4 fb key => Laws.RoundTrip.slot4 fb key
  | .timeout | .xfail | .reset
  | .flags1 _ | .flags10 _ | .flags11 _ | .flags12 _ | .flags13 _ | .flags14 _
  | .seg0 | .seg1 | .seg2 | .seg3 | .seg4 | .seg5 | .seg6 | .seg7 | .seg8 | .seg9 | .segBlank | .segL
  | .flagAc | .flagDc | .flagAutoRange | .flagRs232 | .flagMicro | .flagNano | .flagKilo | .flagDiode
  | .flagMilli | .flagPercent | .flagMega | .flagContinuity | .flagFarads | .flagOhms | .flagDelta | .flagHold
  | .flagAmps | .flagVolts | .flagHertz | .flagBatteryLow
  | .flagRsv14_3 | .flagRsv14_2 | .flagRsv14_1 | .flagRsv14_0 => rfl

theorem level_cases : ∀ level : BitVec 1, level = 0 ∨ level = 1 := by decide

theorem kind_cases : ∀ k : BitVec 2, k = 0 ∨ k = 1 ∨ k = 2 ∨ k = 3 := by decide

/-- A byte's operation is encoded as the byte: one operation per tag (R88). -/
theorem encode_decodeByte (b : Byte) : encode (decodeByte b) = .iw (inputWordOf 0 b) := by
  obtain ⟨t, d, rfl⟩ : ∃ t d, b = byteOf t d := ⟨_, _, (byteOf_tag_data b).symm⟩
  have perTag : ∀ k : Fin 16, encode (decodeByte (byteOf (BitVec.ofFin k) d)) =
      .iw (inputWordOf 0 (byteOf (BitVec.ofFin k) d)) := by
    intro k
    fin_cases k <;> simp only [decodeByte, tagOf_byteOf, dataOf_byteOf] <;> rfl
  exact perTag t.toFin

/-- `START` of a limit of 8 bits is encoded as the input word of kind 1 (R81). -/
theorem encode_start_narrow {m : Nat} (hm : m < 256) :
    encode (.start m) = .iw (inputWordOf 1 (BitVec.ofNat 8 m)) :=
  if_pos hm

/-- `START` of a wider limit is encoded as the abstract event (assumption log 26). -/
theorem encode_start_wide {m : Nat} (hm : 256 ≤ m) : encode (.start m) = .startEvent m :=
  if_neg (Nat.not_lt.mpr hm)

/-- An input word is its operation's encoding, but for the ignored payload of `TIMEOUT` and `XFAIL` (R92). -/
theorem encode_decodeInputWord (w : InputWord) (ht : decodeInputWord w ≠ .timeout)
    (hx : decodeInputWord w ≠ .xfail) : encode (decodeInputWord w) = .iw w := by
  obtain ⟨k, p, rfl⟩ : ∃ k p, w = inputWordOf k p := ⟨_, _, (inputWordOf_fields w).symm⟩
  obtain rfl | rfl | rfl | rfl  := kind_cases k
  · simpa [decodeInputWord] using encode_decodeByte p
  · simpa [decodeInputWord] using encode_start_narrow p.isLt
  · exact absurd (by simp [decodeInputWord]) ht
  · exact absurd (by simp [decodeInputWord]) hx

theorem encode_decodeSlotWord (s : SlotNo) (w : BitVec 8) : encode (decodeSlotWord s w) = .slot s w := by
  cases s <;> simp [decodeSlotWord, encode]

theorem encode_decodeFlagNibble (p : FlagPos) (w : Nibble) : encode (decodeFlagNibble p w) = .flagNibble p w := by
  cases p <;> rfl

/-- A segment key that has a row is the row's key (R98). -/
theorem encode_of_decodeSegKey {k : SegKey} {i : Instr} (h : decodeSegKey k = .ok i) : encode i = .segKey k := by
  unfold decodeSegKey at h
  split at h <;> cases h
  all_goals exact congrArg PortWord.segKey (BitVec.eq_of_toNat_eq (Eq.symm ‹k.toNat = _›))

/-- A nibble that names one flag bit is the mask of its row (R98). -/
theorem encode_of_decodeFlagBit {p : FlagPos} {w : Nibble} {i : Instr} (h : decodeFlagBit p w = .ok i) :
    encode i = .flagBit p w := by
  unfold decodeFlagBit at h
  split at h <;> cases h
  all_goals exact congrArg (PortWord.flagBit _) (BitVec.eq_of_toNat_eq (Eq.symm ‹w.toNat = _›))

/-- Settles O8: forwards one lemma per instruction, backwards one lemma per format. -/
theorem decodeEncodeAgree : Obligations.DecodeEncodeAgree := by
  refine ⟨decode_encode, fun w i h ht hx hs => ?_, fun m => ⟨rfl, encode_start_wide⟩⟩
  cases w with
  | pin level =>
    obtain rfl | rfl := level_cases level
    · cases h
    · cases h; rfl
  | iw w => cases h; exact encode_decodeInputWord w ht hx
  | startEvent m => exact absurd rfl (hs m)
  | slot s w => cases h; exact encode_decodeSlotWord s w
  | flagNibble p w => cases h; exact encode_decodeFlagNibble p w
  | segKey k => exact encode_of_decodeSegKey h
  | flagBit p w => exact encode_of_decodeFlagBit h

/-- Settles O6: each word is read by its fixed format. -/
theorem specWordsDecode : Obligations.SpecWordsDecode := by
  unfold Obligations.SpecWordsDecode
  decide

end Sys2Proof
end

section
/-! PROOFS, what later proofs share: a byte by phase and tag (spec/41_sync_bytes.md R140, R163), the six kinds of
instruction, and a step by the word it takes (spec/40_sync_control.md R120). -/

namespace Sys2Proof.Machine

/-- A byte in `IDLE`, whatever its tag (R66). -/
theorem exec_decodeByte_idle {b : Byte} {s : State} (hp : s.phase = .idle) :
    exec (decodeByte b) s = .next (notEnabled s) := by
  rw [exec_decodeByte]
  split
  · exact strayByte_idle hp
  · exact byteEvent_idle hp

/-- A byte mismatches: its tag is not the expected one, or is no position at all (R143, R161, R162). -/
def Mismatches (b : Byte) (s : State) : Prop := tagOf b ≠ s.expect ∨ tagOf b = 0 ∨ tagOf b = 15

/-- By I1 the expected tag is a position. -/
theorem mismatches_iff {b : Byte} {s : State} (h1 : I1 s) : Mismatches b s ↔ tagOf b ≠ s.expect := by
  obtain ⟨hlo, hhi⟩ := h1
  refine ⟨fun h ht => ?_, .inl⟩
  obtain hne | h0 | h15 := h
  · exact hne ht
  · simp [← ht, h0] at hlo
  · simp [← ht, h15] at hhi

theorem exec_decodeByte_mismatches {b : Byte} {s : State} (hp : s.phase = .hunt) (h : Mismatches b s) :
    exec (decodeByte b) s = mismatch b s := by
  rw [exec_decodeByte]
  split
  · exact strayByte_hunt hp
  · exact byteEvent_mismatches hp (h.resolve_right ‹_›)

theorem exec_decodeByte_accepts {b : Byte} {s : State} (hp : s.phase = .hunt) (h : ¬ Mismatches b s)
    (hx : s.expect ≠ 14) : exec (decodeByte b) s = .next (accept b s) := by
  obtain ⟨ht, hstray⟩ := not_or.mp h
  rw [exec_decodeByte, if_neg hstray, byteEvent_accepts hp (not_not.mp ht) hx]

theorem exec_decodeByte_completes {b : Byte} {s : State} (hp : s.phase = .hunt) (h : ¬ Mismatches b s)
    (hx : s.expect = 14) : exec (decodeByte b) s = complete b s := by
  obtain ⟨ht, hstray⟩ := not_or.mp h
  rw [exec_decodeByte, if_neg hstray, byteEvent_completes hp (not_not.mp ht) hx]

/-- What a byte does, row by row (R140, R163). -/
inductive ByteEffect (b : Byte) (s : State) : State → Prop
  | idle (hp : s.phase = .idle) : ByteEffect b s (notEnabled s)
  | accepted (hp : s.phase = .hunt) (hb : ¬ Mismatches b s) (hx : s.expect ≠ 14) : ByteEffect b s (accept b s)
  | completes (F : Frame) (hp : s.phase = .hunt) (hb : ¬ Mismatches b s) (hx : s.expect = 14)
      (hF : s.cur ++ [b] = F.toList) : ByteEffect b s (completed F s)
  | exhausted (m : Nat) (hp : s.phase = .hunt) (hb : Mismatches b s) (hm : s.maxAtt = some m)
      (hl : m ≤ s.discards + 1) : ByteEffect b s (raiseExc .syncAttempts (discard s))
  | restarted (m : Nat) (hp : s.phase = .hunt) (hb : Mismatches b s) (hm : s.maxAtt = some m)
      (hl : s.discards + 1 < m) : ByteEffect b s (restart b (discard s))

/-- A byte answers a next state exactly by one of the rows. -/
theorem exec_decodeByte_iff {b : Byte} {s t : State} : exec (decodeByte b) s = .next t ↔ ByteEffect b s t := by
  constructor
  · intro h
    cases hp : s.phase with
    | idle =>
      rw [exec_decodeByte_idle hp] at h
      cases h
      exact .idle hp
    | hunt =>
      by_cases hb : Mismatches b s
      · rw [exec_decodeByte_mismatches hp hb] at h
        obtain ⟨m, hm, ⟨hl, rfl⟩ | ⟨hl, rfl⟩⟩ := mismatch_cases h
        · exact .exhausted m hp hb hm hl
        · exact .restarted m hp hb hm hl
      · by_cases hx : s.expect = 14
        · rw [exec_decodeByte_completes hp hb hx] at h
          obtain ⟨F, hF, rfl⟩ := complete_cases h
          exact .completes F hp hb hx hF
        · rw [exec_decodeByte_accepts hp hb hx] at h
          cases h
          exact .accepted hp hb hx
  · intro h
    cases h with
    | idle hp => exact exec_decodeByte_idle hp
    | accepted hp hb hx => exact exec_decodeByte_accepts hp hb hx
    | completes F hp hb hx hF => rw [exec_decodeByte_completes hp hb hx, complete_eq hF]
    | exhausted m hp hb hm hl => rw [exec_decodeByte_mismatches hp hb, mismatch_exhausts hm hl]
    | restarted m hp hb hm hl => rw [exec_decodeByte_mismatches hp hb, mismatch_restart hm hl]

/-- The six kinds of instruction: the events of R6, and the decode operations, which only write the workspace. -/
inductive InstrKind (i : Instr) : Prop
  | byte (b : Byte) (hi : i = decodeByte b)
  | start (m : Nat) (hi : i = .start m)
  | timeout (hi : i = .timeout)
  | xfail (hi : i = .xfail)
  | reset (hi : i = .reset)
  | decode (h : ∀ s, ∃ w, exec i s = .next (setWork w s))

theorem instr_kind (i : Instr) : InstrKind i := by
  cases i with
  | tag0 d => exact .byte (byteOf 0 d) (by simp [decodeByte])
  | pos1 d => exact .byte (byteOf 1 d) (by simp [decodeByte])
  | pos2 d => exact .byte (byteOf 2 d) (by simp [decodeByte])
  | pos3 d => exact .byte (byteOf 3 d) (by simp [decodeByte])
  | pos4 d => exact .byte (byteOf 4 d) (by simp [decodeByte])
  | pos5 d => exact .byte (byteOf 5 d) (by simp [decodeByte])
  | pos6 d => exact .byte (byteOf 6 d) (by simp [decodeByte])
  | pos7 d => exact .byte (byteOf 7 d) (by simp [decodeByte])
  | pos8 d => exact .byte (byteOf 8 d) (by simp [decodeByte])
  | pos9 d => exact .byte (byteOf 9 d) (by simp [decodeByte])
  | pos10 d => exact .byte (byteOf 10 d) (by simp [decodeByte])
  | pos11 d => exact .byte (byteOf 11 d) (by simp [decodeByte])
  | pos12 d => exact .byte (byteOf 12 d) (by simp [decodeByte])
  | pos13 d => exact .byte (byteOf 13 d) (by simp [decodeByte])
  | pos14 d => exact .byte (byteOf 14 d) (by simp [decodeByte])
  | tag15 d => exact .byte (byteOf 15 d) (by simp [decodeByte])
  | start m => exact .start m rfl
  | timeout => exact .timeout rfl
  | xfail => exact .xfail rfl
  | reset => exact .reset rfl
  | _ => exact .decode fun _ => ⟨_, rfl⟩

/-- With nothing offered a step waits (R6). -/
theorem step_of_nil {s : State} (h : s.input = []) : step s = .next (waits s) := by
  simp only [step, fetch, h]

/-- A step runs the word it takes. -/
theorem step_of_cons {s : State} {w : PortWord} {rest : List PortWord} (h : s.input = w :: rest) :
    step s = runWord w { s with input := rest } := by
  simp only [step, fetch, h]

theorem runWord_of_ok {w : PortWord} {i : Instr} (h : decode w = .ok i) (s : State) :
    runWord w s = exec i s := by
  simp only [runWord, h]

theorem runWord_of_error {w : PortWord} {e : DecodeError} (h : decode w = .error e) (s : State) :
    runWord w s = runUnlisted e s := by
  simp only [runWord, h]

/-- A step on a word that is a row of the table runs the row's instruction (R120). -/
theorem step_of_decode {s : State} {w : PortWord} {rest : List PortWord} {i : Instr} (h : s.input = w :: rest)
    (hd : decode w = .ok i) : step s = exec i { s with input := rest } :=
  (step_of_cons h).trans (runWord_of_ok hd _)

/-- A step on an offered byte. -/
theorem step_of_byte {s : State} {b : Byte} {rest : List PortWord} (h : s.input = byteWord b :: rest) :
    step s = exec (decodeByte b) { s with input := rest } :=
  step_of_decode h (decode_byte b)

/-- What a step can do once the offer is taken: wait, run an instruction, or change the workspace as a word outside
the table does. -/
inductive StepEffect (s : State) : State → Prop
  | waits (rest : List PortWord) : StepEffect s (waits { s with input := rest })
  | exec {t : State} (i : Instr) (rest : List PortWord) (h : exec i { s with input := rest } = .next t) :
      StepEffect s t
  | decoded (rest : List PortWord) (w : DecodeWork) (hw : FlagsChange s.config s.work.flags w.flags) :
      StepEffect s (setWork w { s with input := rest })

/-- The inversion of a step. -/
theorem step_effect {s t : State} (h : step s = .next t) : StepEffect s t := by
  obtain ⟨hs, rfl⟩ | ⟨w, rest, i, -, -, hexec⟩ | ⟨w, rest, e, -, -, hrun⟩ := step_cases h
  · exact .waits s.input
  · exact .exec i rest hexec
  · obtain hw | ⟨w', hchange, hw⟩ := runUnlisted_cases e { s with input := rest }
    · cases hw.symm.trans hrun
      exact .waits rest
    · cases hw.symm.trans hrun
      exact .decoded rest w' hchange

/-- A run is its first step and the run of the others. -/
theorem run_of_step {s s' : State} {k : Nat} {r : StepResult} (h : step s = .next s')
    (hr : Host.Core.run core k s' = r) : Host.Core.run core (k + 1) s = r := by
  have hcore : core.step s = .next s' := h
  simpa only [Host.Core.run, hcore] using hr

/-- A restarted search changes `cur`, `expect` and the answer only. -/
theorem restart_eq (b : Byte) (s : State) :
    ∃ l x, restart b s = { s with cur := l, expect := x, answer := .accepted none } := by
  unfold restart
  split
  · exact ⟨_, _, rfl⟩
  · exact ⟨_, _, rfl⟩

end Sys2Proof.Machine
end

section
/-! PROOFS, the invariants of spec/10_state.md R29: they speak of the registers and the width only, so a state in `HUNT`
owes I1, I2, I4 and the width, and one in `IDLE` the counts and the latch; then every effect keeps them. -/

namespace Sys2Proof.Machine

/-- The invariants read no field but the registers and the configuration. -/
theorem Invariants.congr {s t : State} (h : Invariants s) (hr : t.registers = s.registers)
    (hc : t.config = s.config) : Invariants t := by
  obtain ⟨i1, i2, i3, i4, i5, i6, i7, width⟩ := h
  cases s
  cases t
  cases hr
  cases hc
  exact ⟨i1, i2, i3, i4, i5, i6, i7, width⟩

/-- In `HUNT` I4 decides I5 and I6, and I3 and I7 say nothing. -/
theorem Invariants.of_hunt {s : State} (hp : s.phase = .hunt) (i1 : I1 s) (i2 : I2 s) (i4 : I4 s)
    (width : FitsWidth s) : Invariants s := by
  obtain ⟨hresult, hframe, hcount, -, -⟩ := i4 hp
  refine ⟨i1, i2, ?_, i4, ?_, ?_, ?_, width⟩
  · simp [I3, hp]
  · simp [I5, hresult, hframe]
  · simp [I6, hresult, hcount]
  · simp [I7, hp]

/-- In `IDLE` nothing of a capture is left, so I1 to I4 hold. -/
theorem Invariants.of_idle {s : State} (hp : s.phase = .idle) (hx : s.expect = 1) (hcur : s.cur = [])
    (hd : s.discards = 0) (i5 : I5 s) (i6 : I6 s) (i7 : I7 s) (width : FitsWidth s) : Invariants s := by
  refine ⟨?_, ?_, fun _ => ⟨hx, hcur, hd⟩, ?_, i5, i6, i7, width⟩
  · simp [I1, hx]
  · simp [I2, hx, hcur, tagsInOrder]
  · simp [I4, hp]

/-- I4: a running capture has a limit, which its discards have not reached. -/
theorem Invariants.exists_limit {s : State} (h : Invariants s) (hp : s.phase = .hunt) :
    ∃ m, s.maxAtt = some m ∧ s.discards < limitOf m := by
  obtain ⟨_, _, _, hsome, _⟩ := h.i4 hp
  obtain ⟨m, hm⟩ := Option.isSome_iff_exists.mp hsome
  exact ⟨m, hm, h.discards_lt_limit hp hm⟩

/-- I2 for one byte more. -/
theorem tagsInOrder_append_singleton (l : List Byte) (b : Byte) :
    tagsInOrder (l ++ [b]) ↔ tagsInOrder l ∧ tagOf b = BitVec.ofNat 4 (l.length + 1) := by
  simp [tagsInOrder, List.range_succ]

/-- By I2 the expected tag is the next one in order. -/
theorem I2.expect_eq {s : State} (h : I2 s) : s.expect = BitVec.ofNat 4 (s.cur.length + 1) := by
  rw [h.1, BitVec.ofNat_toNat, BitVec.setWidth_eq]

/-- The bytes so far and one with the expected tag are in order. -/
theorem I2.tagsInOrder_append {s : State} {b : Byte} (h : I2 s) (ht : tagOf b = s.expect) :
    tagsInOrder (s.cur ++ [b]) :=
  (tagsInOrder_append_singleton s.cur b).mpr ⟨h.2, ht.trans h.expect_eq⟩

theorem invariants_resetBlock (s : State) : Invariants (resetBlock s) :=
  .of_idle rfl rfl rfl rfl (by simp [I5]) (by simp [I6]) (by simp [I7]) (by simp [FitsWidth])

theorem invariants_startCapture {m : Nat} {s : State} (hm : m < 2 ^ s.config.attW) :
    Invariants (startCapture m s) :=
  .of_hunt rfl (by simp [I1]) (by simp [I2, tagsInOrder]) (by simp [I4, limitOf]) (by simpa [FitsWidth] using hm)

/-- An exception keeps the invariants where its count is the one R261 gives it. -/
theorem invariants_raiseExc {e : Exc} {s : State} {m : Nat} (hm : s.maxAtt = some m) (hF : s.outFrame = none)
    (hw : FitsWidth s) (heq : e = .syncAttempts → s.discards = limitOf m)
    (hlt : e ≠ .syncAttempts → s.discards < limitOf m) : Invariants (raiseExc e s) := by
  refine .of_idle rfl rfl rfl rfl ?_ ?_ ?_ hw
  · cases e <;> simp [I5, hF, Exc.code]
  · cases e <;> simp_all [I6, Exc.code]
  · cases e <;> simp [I7, hm, Exc.code]

/-- A running capture goes on with fewer discards than its limit and a buffer in order. -/
theorem Invariants.update_of_hunt {s : State} (h : Invariants s) (hp : s.phase = .hunt) {l : List Byte} {x : Nibble}
    {d : Nat} {a : Answer} (i1 : 1 ≤ x.toNat ∧ x.toNat ≤ 14) (i2 : l.length + 1 = x.toNat ∧ tagsInOrder l)
    (hd : ∀ m ∈ s.maxAtt, d < limitOf m) :
    Invariants { s with cur := l, expect := x, discards := d, answer := a } := by
  obtain ⟨hresult, hframe, hcount, hsome, -⟩ := h.i4 hp
  exact .of_hunt hp i1 i2 (fun _ => ⟨hresult, hframe, hcount, hsome, hd⟩) h.width

theorem invariants_accept {b : Byte} {s : State} (h : Invariants s) (hp : s.phase = .hunt)
    (ht : tagOf b = s.expect) (hx : s.expect ≠ 14) : Invariants (accept b s) := by
  have hlt : s.expect.toNat < 14 := lt_of_le_of_ne h.i1.2 fun h14 => hx (BitVec.eq_of_toNat_eq h14)
  have hnext : (s.expect + 1).toNat = s.expect.toNat + 1 := by
    rw [BitVec.toNat_add]
    exact Nat.mod_eq_of_lt (by simp; omega)
  obtain ⟨-, -, -, -, hd⟩ := h.i4 hp
  refine h.update_of_hunt hp (by omega) ⟨?_, h.i2.tagsInOrder_append ht⟩ hd
  rw [append_cur, List.length_append, List.length_singleton, hnext, h.i2.1]

theorem invariants_completed {b : Byte} {s : State} {F : Frame} (h : Invariants s) (hp : s.phase = .hunt)
    (ht : tagOf b = s.expect) (hF : s.cur ++ [b] = F.toList) : Invariants (completed F s) := by
  have htagged : F.tagged := by
    rw [Frame.tagged, ← hF]
    exact h.i2.tagsInOrder_append ht
  obtain ⟨m, hm, hlt⟩ := h.exists_limit hp
  exact .of_idle rfl rfl rfl rfl (by simpa [I5, completed] using htagged)
    (by simpa [I6, completed, hm] using hlt) (by simp [I7, completed, hm]) h.width

theorem invariants_exhausted {s : State} {m : Nat} (h : Invariants s) (hp : s.phase = .hunt)
    (hm : s.maxAtt = some m) (hl : m ≤ s.discards + 1) : Invariants (raiseExc .syncAttempts (discard s)) :=
  invariants_raiseExc hm (h.outFrame_of_hunt hp) h.width (fun _ => h.exhausted_count hp hm hl)
    fun hne => absurd rfl hne

theorem invariants_restarted {b : Byte} {s : State} {m : Nat} (h : Invariants s) (hp : s.phase = .hunt)
    (hm : s.maxAtt = some m) (hl : s.discards + 1 < m) : Invariants (restart b (discard s)) := by
  have hd : ∀ m' ∈ s.maxAtt, s.discards + 1 < limitOf m' := by
    intro m' hm'
    obtain rfl : m = m' := Option.some.inj (hm.symm.trans hm')
    exact lt_max_of_lt_left hl
  by_cases ht : tagOf b = 1
  · rw [restart_candidate ht]
    exact h.update_of_hunt hp (by decide) ⟨rfl, by simpa [tagsInOrder] using ht⟩ hd
  · rw [restart_skip ht]
    exact h.update_of_hunt hp (by decide) ⟨rfl, rfl⟩ hd

/-- Every effect keeps the invariants. -/
theorem Effect.keeps_invariants {i : Instr} {s t : State} (he : Effect i s t) (h : Invariants s) :
    Invariants t := by
  cases he with
  | quiet | decoded => exact h.congr rfl rfl
  | reset => exact invariants_resetBlock s
  | start m _ hm _ => exact invariants_startCapture hm
  | timedOut _ hp | failed _ hp =>
    obtain ⟨m, hm, hlt⟩ := h.exists_limit hp
    exact invariants_raiseExc hm (h.outFrame_of_hunt hp) h.width (by simp) fun _ => hlt
  | accepted b _ hp ht hx => exact invariants_accept h hp ht hx
  | completes b F _ hp ht hx hF => exact invariants_completed h hp (ht.trans hx.symm) hF
  | exhausted b m _ hp hm hl => exact invariants_exhausted h hp hm hl
  | restarted b m _ hp hm hl => exact invariants_restarted h hp hm hl

/-- Settles O24: the reset state is a reset block. -/
theorem invariantsAtReset : Obligations.InvariantsAtReset := invariants_resetBlock State.reset

/-- Settles O25: the offer taken is no register, and what runs then is an effect, a wait or a decode operation. -/
theorem stepKeepsInvariants : Obligations.StepKeepsInvariants := by
  intro s t h hstep
  cases step_effect hstep with
  | waits | decoded => exact h.congr rfl rfl
  | exec i rest hexec => exact (exec_effect hexec).keeps_invariants (h.congr rfl rfl)

end Sys2Proof.Machine
end

section
/-! PROOFS, what one instruction may do: where an outcome comes from and what it leaves, which operation writes which
register, the configuration and the workspace (spec/10_state.md R25 to R38, spec/60_exceptions.md R273, R278). -/

namespace Sys2Proof.Machine

/-- Settles O20: each of the four ends of a capture starts in `HUNT` and ends in the `IDLE` state of `end_capture`. -/
theorem exceptionsOnlyInHunt : Obligations.ExceptionsOnlyInHunt := by
  intro i s t o h ho
  cases (exec_effect h).captureEnd ho with
  | frame _ _ _ hp | attempts _ _ _ hp _ _ | time _ hp | transport _ hp => exact ⟨hp, rfl, rfl, rfl, rfl, rfl⟩

/-- Settles O21: the end of a capture that answers the outcome writes its code and its count. -/
theorem outcomeAgreesWithRegisters : Obligations.OutcomeAgreesWithRegisters := by
  intro i s t h
  have ended {o : CaptureOutcome} (ho : t.answer = .accepted (some o)) : CaptureEnd i s o t :=
    (exec_effect h).captureEnd ho
  refine ⟨fun F n ho => ?_, fun n ho => ?_, fun n ho => ?_, fun n ho => ?_⟩
  · cases ended ho with
    | frame => exact ⟨rfl, rfl, rfl⟩
  · cases ended ho with
    | attempts => exact ⟨rfl, rfl⟩
  · cases ended ho with
    | time => exact ⟨rfl, rfl⟩
  · cases ended ho with
    | transport => exact ⟨rfl, rfl⟩

theorem done_eq_true_iff (s : State) : done s = true ↔ ∃ o, s.answer = .accepted (some o) := by
  unfold done
  split <;> simp_all

/-- An effect that takes a capture from `HUNT` to `IDLE` is a `RESET` or answers an outcome. -/
theorem Effect.outcome_of_hunt_idle {i : Instr} {s t : State} (h : Effect i s t) (hi : i ≠ .reset)
    (hs : s.phase = .hunt) (ht : t.phase = .idle) : ∃ o, t.answer = .accepted (some o) := by
  cases h with
  | reset hr => exact absurd hr hi
  | timedOut | failed | completes | exhausted => exact ⟨_, rfl⟩
  | start _ _ _ hp => cases hs.symm.trans hp
  | quiet | decoded | accepted => cases hs.symm.trans ht
  | restarted b m hi hp hm hl =>
    obtain ⟨l, x, hr⟩ := restart_eq b (discard s)
    rw [hr] at ht
    cases hs.symm.trans ht

/-- Settles O22: an outcome is the end of a capture (O20), and nothing else but `RESET` leaves `HUNT`. -/
theorem captureEndsExactlyWithDone : Obligations.CaptureEndsExactlyWithDone := by
  intro i s t hi h
  refine (done_eq_true_iff t).trans ⟨fun ⟨o, ho⟩ => ?_, fun ⟨hs, ht⟩ => ?_⟩
  · obtain ⟨hs, ht, -⟩ := exceptionsOnlyInHunt i s t o h ho
    exact ⟨hs, ht⟩
  · exact (exec_effect h).outcome_of_hunt_idle hi hs ht

/-- Settles O23: an effect that writes one of the registers names its instruction. -/
theorem registerWriters : Obligations.RegisterWriters := by
  intro i s t h
  cases exec_effect h with
  | reset hi => simp [hi]
  | start m hi => simp [hi]
  | quiet | decoded | accepted => simp
  | timedOut hi | failed hi => simp [hi]
  | completes b F hi _ htag =>
    exact ⟨by simp [completed], fun _ => .inr (.inr ⟨dataOf b, hi.trans (decodeByte_of_tag_14 htag)⟩),
      fun _ => by simp [hi]⟩
  | exhausted b m hi => exact ⟨by simp, by simp, fun _ => by simp [hi]⟩
  | restarted b m hi =>
    obtain ⟨l, x, hr⟩ := restart_eq b (discard s)
    simp [hr]

/-- Settles O30: of all effects only a wait or ignored event and a decode operation come from no event. -/
theorem decodeOperationsKeepRegisters : Obligations.DecodeOperationsKeepRegisters := by
  intro i s t h hstart htimeout hxfail hreset hbyte
  cases exec_effect h with
  | quiet | decoded => exact ⟨rfl, rfl⟩
  | reset hi => exact absurd hi hreset
  | start m hi => exact absurd hi (hstart m)
  | timedOut hi => exact absurd hi htimeout
  | failed hi => exact absurd hi hxfail
  | accepted b hi | completes b _ hi | exhausted b _ hi | restarted b _ hi => exact absurd hi (hbyte b)

theorem exec_config {i : Instr} {s t : State} (h : exec i s = .next t) : t.config = s.config := by
  cases exec_effect h with
  | quiet | decoded | reset | start | timedOut | failed | accepted | completes | exhausted => rfl
  | restarted b =>
    obtain ⟨l, x, hr⟩ := restart_eq b (discard s)
    rw [hr]
    rfl

theorem step_config {s t : State} (h : step s = .next t) : t.config = s.config := by
  cases step_effect h with
  | waits | decoded => rfl
  | exec i rest hexec => exact (exec_config hexec).trans rfl

/-- Settles O55: no effect writes the configuration, and no word outside the table does. -/
theorem configurationIsConstant : Obligations.ConfigurationIsConstant :=
  ⟨fun _ _ _ => exec_config, fun _ _ => step_config⟩

/-- Settles O26: `RESET` empties the workspace. -/
theorem canonicalFlagSetsAtReset : Obligations.CanonicalFlagSetsAtReset := empty_canonical

theorem FlagsChange.canonical {c : Config} {fs fs' : FlagSet} (h : FlagsChange c fs fs') (hfs : fs.Canonical) :
    fs'.Canonical := by
  obtain rfl | ⟨p, b, rfl⟩ | ⟨p, j, rfl⟩ := h
  · exact hfs
  · exact matchNibble_canonical c p b hfs
  · exact addFlag_canonical c p j hfs

/-- An effect leaves the workspace's FlagSet, empties it, or changes it as a decode operation does. -/
theorem Effect.keeps_canonical {i : Instr} {s t : State} (h : Effect i s t) (hs : s.work.flags.Canonical) :
    t.work.flags.Canonical := by
  cases h with
  | quiet | timedOut | failed | accepted | exhausted => exact hs
  | decoded w hw => exact hw.canonical hs
  | reset | start | completes => exact empty_canonical
  | restarted b =>
    obtain ⟨l, x, hr⟩ := restart_eq b (discard s)
    rw [hr]
    exact hs

/-- Settles O27: a step is a wait, an effect, or a decode operation on a word outside the table. -/
theorem stepKeepsFlagSetsCanonical : Obligations.StepKeepsFlagSetsCanonical := by
  intro s t hs h
  cases step_effect h with
  | waits => exact hs
  | exec i rest hexec => exact (exec_effect hexec).keeps_canonical hs
  | decoded rest w hw => exact hw.canonical hs

/-- Settles O54: each event's own rule says what becomes of the workspace. -/
theorem workspaceFollowsLatch : Obligations.WorkspaceFollowsLatch := by
  intro i s t h
  have keeps {e : Exc} (h : asyncEvent e s = .next t) : t.work = s.work := by
    obtain ⟨-, rfl⟩ | rfl := asyncEvent_cases h <;> rfl
  refine ⟨?_, ?_, fun F n ho => ?_, ?_, ?_⟩
  · rintro rfl
    cases h
    rfl
  · rintro m rfl
    rw [exec_start] at h
    have hm : m < 2 ^ s.config.attW := by
      by_contra hwide
      rw [execStart_wide (Nat.not_lt.mp hwide)] at h
      cases h
    refine ⟨fun hp => ?_, fun hp => ?_⟩
    · rw [execStart_idle hm hp] at h
      cases h
      rfl
    · rw [execStart_hunt hm hp] at h
      cases h
      rfl
  · cases (exec_effect h).captureEnd ho with
    | frame => rfl
  · rintro (rfl | rfl)
    · exact keeps h
    · exact keeps h
  · rintro b rfl hno
    cases exec_decodeByte_iff.mp h with
    | idle | accepted | exhausted => rfl
    | completes F => exact absurd rfl (hno F s.discards)
    | restarted =>
      obtain ⟨l, x, hr⟩ := restart_eq b (discard s)
      rw [hr]
      rfl

end Sys2Proof.Machine
end

section
/-! PROOFS, the events together: which are enabled, the transition table of a byte, that every enabled event is
answered, and that no answer depends on the decoder (spec/41_sync_bytes.md R163, spec/40_sync_control.md R126,
spec/10_state.md R24, R32, R36). -/

namespace Sys2Proof.Machine

/-- Settles O12: each of the sixteen is a `BYTE` event or a stray byte, and both rules begin with the phase. -/
theorem bytesNotEnabledInIdle : Obligations.BytesNotEnabledInIdle := by
  intro d s hp
  simp only [List.forall_mem_cons, List.not_mem_nil, false_implies, implies_true, and_true]
  exact ⟨strayByte_idle hp, byteEvent_idle hp, byteEvent_idle hp, byteEvent_idle hp, byteEvent_idle hp,
    byteEvent_idle hp, byteEvent_idle hp, byteEvent_idle hp, byteEvent_idle hp, byteEvent_idle hp,
    byteEvent_idle hp, byteEvent_idle hp, byteEvent_idle hp, byteEvent_idle hp, byteEvent_idle hp,
    strayByte_idle hp⟩

theorem inReady_eq_false_iff (w : InputWord) (s : State) :
    inReady s w = false ↔ s.phase = .idle ∧ kindOf w = 0 := by
  simp [inReady]

theorem exec_decodeByte_answer_iff {b : Byte} {s t : State} (h : exec (decodeByte b) s = .next t) :
    t.answer = .notEnabled ↔ s.phase = .idle := by
  cases exec_decodeByte_iff.mp h with
  | idle hp => simp [hp]
  | accepted hp | completes _ hp | exhausted _ hp => simp [hp, completed]
  | restarted _ hp => simp [hp, restart_answer]

theorem execStart_answer {m : Nat} {s t : State} (h : execStart m s = .next t) :
    t.answer = .accepted none := by
  unfold execStart at h
  split at h
  · split at h <;> cases h <;> rfl
  · cases h

theorem asyncEvent_answer {e : Exc} {s t : State} (h : asyncEvent e s = .next t) :
    ∃ o, t.answer = .accepted o := by
  obtain ⟨-, rfl⟩ | rfl := asyncEvent_cases h
  · exact ⟨_, rfl⟩
  · exact ⟨_, rfl⟩

/-- Settles O13: of the four kinds only a byte can be answered as not enabled, and it is in `IDLE`. -/
theorem readyPortTellsEnabled : Obligations.ReadyPortTellsEnabled := by
  intro w s t
  refine ⟨inReady_eq_false_iff w s, fun h => ?_⟩
  rw [inReady_eq_false_iff]
  obtain ⟨k, p, rfl⟩ : ∃ k p, w = inputWordOf k p := ⟨_, _, (inputWordOf_fields w).symm⟩
  obtain rfl | rfl | rfl | rfl := kind_cases k
  · have hb : exec (decodeByte p) s = .next t := by simpa [decodeInputWord] using h
    simpa using exec_decodeByte_answer_iff hb
  · have hstart : execStart p.toNat s = .next t := by simpa [decodeInputWord, exec_start] using h
    simp [execStart_answer hstart]
  · have htimeout : asyncEvent .syncTime s = .next t := by simpa [decodeInputWord, exec_timeout] using h
    obtain ⟨o, ho⟩ := asyncEvent_answer htimeout
    simp [ho]
  · have hxfail : asyncEvent .transport s = .next t := by simpa [decodeInputWord, exec_xfail] using h
    obtain ⟨o, ho⟩ := asyncEvent_answer hxfail
    simp [ho]

/-- By I2 the fourteenth byte makes a frame, correctly tagged. -/
theorem Invariants.exists_frame {b : Byte} {s : State} (h : Invariants s) (ht : tagOf b = s.expect)
    (hx : s.expect = 14) : ∃ F : Frame, s.cur ++ [b] = F.toList ∧ F.tagged := by
  have hlen : (s.cur ++ [b]).length = 14 := by
    rw [List.length_append, List.length_singleton, h.i2.1, hx]
    rfl
  obtain ⟨F, hF⟩ := frameOfList_of_length hlen
  have hbytes := frameOfList_eq_some.mp hF
  refine ⟨F, hbytes, ?_⟩
  rw [Frame.tagged, ← hbytes]
  exact h.i2.tagsInOrder_append ht

/-- Settles O18: each row of the table is a row of `ByteEffect`, with the values I4 gives the other registers. -/
theorem byteTransitionTable : Obligations.ByteTransitionTable := by
  intro b s m hs hp hm
  obtain ⟨hresult, hframe, hcount, -⟩ := hs.i4 hp
  have hmis : Mismatches b s ↔ tagOf b ≠ s.expect := mismatches_iff hs.i1
  refine ⟨fun ht hx => ?_, fun ht hx => ?_, fun ht hl => ?_, fun ht hl h1 => ?_, fun ht hl h1 => ?_⟩
  · have hne : s.expect ≠ 14 := by
      intro h14
      simp [h14] at hx
    refine ⟨accept b s, exec_decodeByte_iff.mpr (.accepted hp (by simp [hmis, ht]) hne), ?_, rfl⟩
    simp [State.registers, hp, hm, hresult, hframe, hcount]
  · obtain ⟨F, hF, htagged⟩ := hs.exists_frame ht hx
    refine ⟨completed F s, F, exec_decodeByte_iff.mpr (.completes F hp (by simp [hmis, ht]) hx hF), hF, htagged,
      ?_, rfl⟩
    simp [State.registers, completed, hm]
  · refine ⟨_, exec_decodeByte_iff.mpr (.exhausted m hp (hmis.mpr ht) hm hl), ?_, rfl⟩
    simp [State.registers, Exc.code, hm, hframe]
  · refine ⟨_, exec_decodeByte_iff.mpr (.restarted m hp (hmis.mpr ht) hm hl), ?_, restart_answer _ _⟩
    simp [restart_candidate h1, State.registers, hp, hm, hresult, hframe, hcount]
  · refine ⟨_, exec_decodeByte_iff.mpr (.restarted m hp (hmis.mpr ht) hm hl), ?_, restart_answer _ _⟩
    simp [restart_skip h1, State.registers, hp, hm, hresult, hframe, hcount]

/-- Under the invariants every byte has its row. -/
theorem Invariants.exists_byteEffect {s : State} (hs : Invariants s) (b : Byte) : ∃ t, ByteEffect b s t := by
  cases hp : s.phase with
  | idle => exact ⟨_, .idle hp⟩
  | hunt =>
    by_cases hb : Mismatches b s
    · obtain ⟨m, hm, -⟩ := hs.exists_limit hp
      by_cases hl : m ≤ s.discards + 1
      · exact ⟨_, .exhausted m hp hb hm hl⟩
      · exact ⟨_, .restarted m hp hb hm (Nat.not_le.mp hl)⟩
    · by_cases hx : s.expect = 14
      · obtain ⟨ht, -⟩ := not_or.mp hb
        obtain ⟨F, hF, -⟩ := hs.exists_frame (not_not.mp ht) hx
        exact ⟨_, .completes F hp hb hx hF⟩
      · exact ⟨_, .accepted hp hb hx⟩

theorem execStart_total {m : Nat} {s : State} (hm : m < 2 ^ s.config.attW) : ∃ t, execStart m s = .next t := by
  cases hp : s.phase with
  | idle => exact ⟨_, execStart_idle hm hp⟩
  | hunt => exact ⟨_, execStart_hunt hm hp⟩

theorem asyncEvent_total (e : Exc) (s : State) : ∃ t, asyncEvent e s = .next t := by
  cases hp : s.phase with
  | idle => exact ⟨_, asyncEvent_idle hp⟩
  | hunt => exact ⟨_, asyncEvent_hunt hp⟩

/-- Under the invariants an instruction answers a next state, unless it is a `START` whose limit does not fit. -/
theorem Invariants.exec_total {s : State} (hs : Invariants s) (i : Instr) :
    (∃ t, exec i s = .next t) ∨ ∃ m, i = .start m ∧ 2 ^ s.config.attW ≤ m := by
  cases instr_kind i with
  | byte b hi =>
    obtain ⟨t, ht⟩ := hs.exists_byteEffect b
    exact .inl ⟨t, hi ▸ exec_decodeByte_iff.mpr ht⟩
  | start m hi =>
    obtain hm | hm := Nat.lt_or_ge m (2 ^ s.config.attW)
    · exact .inl (hi ▸ execStart_total hm)
    · exact .inr ⟨m, hi, hm⟩
  | timeout hi => exact .inl (hi ▸ asyncEvent_total .syncTime s)
  | xfail hi => exact .inl (hi ▸ asyncEvent_total .transport s)
  | reset hi => exact .inl ⟨_, hi ▸ exec_reset s⟩
  | decode h =>
    obtain ⟨w, hw⟩ := h s
    exact .inl ⟨_, hw⟩

/-- Settles O28: the invariants rule out the two faults of a byte, and only a wide `START` is refused. -/
theorem everyEnabledEventHasAnswer : Obligations.EveryEnabledEventHasAnswer := by
  refine ⟨fun i s hs hwf => ?_, fun m s hm => execStart_wide hm, fun s hs => ?_⟩
  · refine (hs.exec_total i).resolve_right ?_
    rintro ⟨m, rfl, hm⟩
    exact absurd (of_decide_eq_true hwf) (Nat.not_lt.mpr hm)
  · cases hin : s.input with
    | nil => exact .inl ⟨_, step_of_nil hin⟩
    | cons w rest =>
      have hrest : Invariants { s with input := rest } := hs.congr rfl rfl
      cases hd : decode w with
      | ok i =>
        rw [step_of_decode hin hd]
        obtain ht | ⟨m, rfl, hm⟩ := hrest.exec_total i
        · exact .inl ht
        · exact .inr ⟨w, rest, m, rfl, hd, hm, execStart_wide hm⟩
      | error e =>
        rw [step_of_cons hin, runWord_of_error hd]
        obtain hw | ⟨w', -, hw⟩ := runUnlisted_cases e { s with input := rest }
        · exact .inl ⟨_, hw⟩
        · exact .inl ⟨_, hw⟩

/-- Settles O29: the invariants of the next state (O25) bound its counters, and its width is the old one (O55). -/
theorem countersFitTheirWidth : Obligations.CountersFitTheirWidth := by
  intro s t m hwidth hs h hm
  have ht : Invariants t := stepKeepsInvariants s t hs h
  have hone : 1 < 2 ^ t.config.attW := by
    rw [step_config h]
    exact Nat.one_lt_two_pow (Nat.one_le_iff_ne_zero.mp (of_decide_eq_true hwidth))
  refine ⟨?_, max_lt (ht.width m hm) hone, fun n hn => ?_, ht.i1.2⟩
  · cases hp : t.phase with
    | idle =>
      obtain ⟨-, -, hd⟩ := ht.i3 hp
      rw [hd]
      exact lt_max_of_lt_right Nat.one_pos
    | hunt => exact ht.discards_lt_limit hp hm
  · obtain ⟨-, -, hcount⟩ := ht.i6
    obtain ⟨heq, hlt⟩ := hcount m hm n hn
    by_cases hr : t.result = .errSyncAttempts
    · exact (heq hr).le
    · exact (hlt hr).le

/-- `r₂` follows `r₁`: where `r₁` is a next state, so is `r₂`, and the two agree on what is not the decoder's. -/
def Follows (r₁ r₂ : StepResult) : Prop :=
  ∀ t₁, r₁ = .next t₁ →
    ∃ t₂, r₂ = .next t₂ ∧ t₁.registers = t₂.registers ∧ t₁.input = t₂.input ∧ t₁.answer = t₂.answer

/-- The same registers, offers and width with the decoder's fields and the last answer replaced. -/
def State.withDecoder (s : State) (c : Config) (w : DecodeWork) (a : Answer) : State :=
  { s with config := { c with attW := s.config.attW }, work := w, answer := a }

/-- Two states that agree on registers, offers and width differ in the decoder's fields and the last answer only. -/
theorem eq_withDecoder {s₁ s₂ : State} (hr : s₁.registers = s₂.registers) (hi : s₁.input = s₂.input)
    (hw : s₁.config.attW = s₂.config.attW) : s₂ = s₁.withDecoder s₂.config s₂.work s₂.answer := by
  cases s₁
  cases s₂
  cases hr
  cases hi
  dsimp only at hw
  simp only [State.withDecoder, hw]

/-- A byte's row is chosen and carried out by the registers alone. -/
theorem byte_follows (b : Byte) (s : State) (c : Config) (w : DecodeWork) (a : Answer) :
    Follows (exec (decodeByte b) s) (exec (decodeByte b) (s.withDecoder c w a)) := by
  intro t₁ h
  cases exec_decodeByte_iff.mp h with
  | idle hp => exact ⟨_, exec_decodeByte_iff.mpr (.idle hp), rfl, rfl, rfl⟩
  | accepted hp hb hx => exact ⟨_, exec_decodeByte_iff.mpr (.accepted hp hb hx), rfl, rfl, rfl⟩
  | completes F hp hb hx hF => exact ⟨_, exec_decodeByte_iff.mpr (.completes F hp hb hx hF), rfl, rfl, rfl⟩
  | exhausted m hp hb hm hl => exact ⟨_, exec_decodeByte_iff.mpr (.exhausted m hp hb hm hl), rfl, rfl, rfl⟩
  | restarted m hp hb hm hl =>
    refine ⟨_, exec_decodeByte_iff.mpr (.restarted m hp hb hm hl), ?_⟩
    unfold restart
    split <;> exact ⟨rfl, rfl, rfl⟩

/-- `START` reads the phase and the width. -/
theorem start_follows (m : Nat) (s : State) (c : Config) (w : DecodeWork) (a : Answer) :
    Follows (execStart m s) (execStart m (s.withDecoder c w a)) := by
  intro t₁ h
  obtain hm | hm := Nat.lt_or_ge m (2 ^ s.config.attW)
  · cases hp : s.phase with
    | idle =>
      rw [execStart_idle hm hp] at h
      cases h
      exact ⟨_, execStart_idle hm hp, rfl, rfl, rfl⟩
    | hunt =>
      rw [execStart_hunt hm hp] at h
      cases h
      exact ⟨_, execStart_hunt hm hp, rfl, rfl, rfl⟩
  · rw [execStart_wide hm] at h
    cases h

/-- `TIMEOUT` and `XFAIL` read the phase. -/
theorem async_follows (e : Exc) (s : State) (c : Config) (w : DecodeWork) (a : Answer) :
    Follows (asyncEvent e s) (asyncEvent e (s.withDecoder c w a)) := by
  intro t₁ h
  cases hp : s.phase with
  | idle =>
    rw [asyncEvent_idle hp] at h
    cases h
    exact ⟨_, asyncEvent_idle hp, rfl, rfl, rfl⟩
  | hunt =>
    rw [asyncEvent_hunt hp] at h
    cases h
    exact ⟨_, asyncEvent_hunt hp, rfl, rfl, rfl⟩

/-- A decode operation writes the workspace only, whatever it finds there. -/
theorem setWork_follows {r₁ r₂ : StepResult} {s : State} {c : Config} {w w₁ w₂ : DecodeWork} {a : Answer}
    (h₁ : r₁ = .next (setWork w₁ s)) (h₂ : r₂ = .next (setWork w₂ (s.withDecoder c w a))) : Follows r₁ r₂ := by
  intro t₁ h
  cases h₁.symm.trans h
  exact ⟨_, h₂, rfl, rfl, rfl⟩

theorem exec_follows (i : Instr) (s : State) (c : Config) (w : DecodeWork) (a : Answer) :
    Follows (exec i s) (exec i (s.withDecoder c w a)) := by
  cases instr_kind i with
  | byte b hi => exact hi ▸ byte_follows b s c w a
  | start m hi => exact hi ▸ start_follows m s c w a
  | timeout hi => exact hi ▸ async_follows .syncTime s c w a
  | xfail hi => exact hi ▸ async_follows .transport s c w a
  | reset hi =>
    subst hi
    intro t₁ h
    cases (exec_reset s).symm.trans h
    exact ⟨_, exec_reset _, rfl, rfl, rfl⟩
  | decode hdec =>
    obtain ⟨w₁, h₁⟩ := hdec s
    obtain ⟨w₂, h₂⟩ := hdec (s.withDecoder c w a)
    exact setWork_follows h₁ h₂

theorem runUnlisted_follows (e : DecodeError) (s : State) (c : Config) (w : DecodeWork) (a : Answer) :
    Follows (runUnlisted e s) (runUnlisted e (s.withDecoder c w a)) := by
  cases e with
  | pinLow =>
    intro t₁ h
    cases h
    exact ⟨_, rfl, rfl, rfl, rfl⟩
  | unmappedKey k => exact setWork_follows rfl rfl
  | notOneFlagBit p n => exact setWork_follows rfl rfl

/-- Settles O31: both states take the same word, and what it runs reads registers and width only. -/
theorem synchronizerIgnoresDecodedFields : Obligations.SynchronizerIgnoresDecodedFields := by
  intro s₁ s₂ t₁ hr hi hw h
  obtain ⟨c, w, a, rfl⟩ : ∃ c w a, s₂ = s₁.withDecoder c w a := ⟨_, _, _, eq_withDecoder hr hi hw⟩
  cases hin : s₁.input with
  | nil =>
    rw [step_of_nil hin] at h
    cases h
    exact ⟨_, step_of_nil hin, rfl, rfl, rfl⟩
  | cons word rest =>
    have hin₂ : (s₁.withDecoder c w a).input = word :: rest := hin
    rw [step_of_cons hin] at h
    rw [step_of_cons hin₂]
    cases hd : decode word with
    | ok i =>
      rw [runWord_of_ok hd] at h ⊢
      exact exec_follows i { s₁ with input := rest } c w a t₁ h
    | error e =>
      rw [runWord_of_error hd] at h ⊢
      exact runUnlisted_follows e { s₁ with input := rest } c w a t₁ h

/-- Settles O32: of an idle state `START` keeps the offers and the configuration only. -/
theorem startForgetsThePast : Obligations.StartForgetsThePast := by
  intro m s₁ s₂ t₁ hp₁ hp₂ hi hc h
  obtain hm | hm := Nat.lt_or_ge m (2 ^ s₁.config.attW)
  · rw [exec_start, execStart_idle hm hp₁] at h
    cases h
    have hm₂ : m < 2 ^ s₂.config.attW := hc ▸ hm
    rw [exec_start, execStart_idle hm₂ hp₂]
    simp only [startCapture, hi, hc]
  · rw [exec_start, execStart_wide hm] at h
    cases h

end Sys2Proof.Machine
end

section
/-! PROOFS, runs of the environment's offers: one step by the word it takes, then a frame after `START` and after
other bytes (spec/41_sync_bytes.md R164), the arbiter's order (spec/60_exceptions.md R269) and the host's calls
(spec/40_sync_control.md R125). -/

namespace Sys2Proof.Machine

/-- Settles O3: the step takes the word and runs what it decodes to. -/
theorem stepRunsDecodedInstruction : Obligations.StepRunsDecodedInstruction :=
  fun _ _ _ _ h hd => step_of_decode h hd

/-- The words that decode to no row: a low pin, a key, a flag nibble. -/
theorem word_of_decode_error {w : PortWord} {e : DecodeError} (h : decode w = .error e) :
    w = .pin 0 ∨ (∃ k, w = .segKey k) ∨ ∃ p n, w = .flagBit p n := by
  cases w with
  | pin level =>
    obtain rfl | rfl := level_cases level
    · exact .inl rfl
    · cases h
  | segKey k => exact .inr (.inl ⟨k, rfl⟩)
  | flagBit p n => exact .inr (.inr ⟨p, n, rfl⟩)
  | iw | startEvent | slot | flagNibble => cases h

/-- A key without a row is reported as itself. -/
theorem decodeSegKey_error {k : SegKey} {e : DecodeError} (h : decode (.segKey k) = .error e) :
    e = .unmappedKey k := by
  change decodeSegKey k = .error e at h
  unfold decodeSegKey at h
  split at h <;> cases h
  rfl

/-- A nibble without a row is reported with its position. -/
theorem decodeFlagBit_error {p : FlagPos} {n : Nibble} {e : DecodeError}
    (h : decode (.flagBit p n) = .error e) : e = .notOneFlagBit p n := by
  change decodeFlagBit p n = .error e at h
  unfold decodeFlagBit at h
  split at h <;> cases h
  rfl

/-- Settles O4: the report of the decoder says which word it was, and `runUnlisted` acts on the report. -/
theorem stepWithoutInstruction : Obligations.StepWithoutInstruction := by
  refine ⟨fun s h => step_of_nil h, fun s w rest e h hd => ?_⟩
  have hrun : step s = runUnlisted e { s with input := rest } :=
    (step_of_cons h).trans (runWord_of_error hd _)
  refine ⟨?_, ?_, ?_, word_of_decode_error hd⟩
  · rintro rfl
    cases hd
    exact hrun
  · rintro k rfl
    obtain rfl := decodeSegKey_error hd
    exact hrun
  · rintro p n rfl
    obtain rfl := decodeFlagBit_error hd
    exact ⟨_, hrun, has_matchNibble s.config p n s.work.flags⟩

/-- Settles O5: the word is offered first, and taking it gives the state back. -/
theorem tableWordRunsNext : Obligations.TableWordRunsNext := by
  intro s nbits w i h
  unfold decodeTableWord at h
  cases hw : tableWord nbits w with
  | none => simp [hw] at h
  | some pw =>
    cases hd : decode pw with
    | error e => simp [hw, hd] at h
    | ok j =>
      obtain rfl : j = i := by simpa [hw, hd] using h
      have hfetch : s.withFetchWord nbits w = offerFirst pw s := by simp only [State.withFetchWord, hw]
      rw [hfetch]
      exact step_of_decode rfl hd

/-- By its tags a frame is its own bytes in order: the byte after `l` has the next tag. -/
theorem tagOf_of_tagged {F : Frame} {l r : List Byte} {b : Byte} (hF : F.tagged) (h : l ++ b :: r = F.toList) :
    tagOf b = BitVec.ofNat 4 (l.length + 1) := by
  have hlen : l.length < F.toList.length := by
    rw [← h]
    simp
  have htags := congrArg (fun tags => tags[l.length]?) hF
  simpa [← h] using htags

/-- A capture whose buffer holds the first bytes of a correctly tagged frame captures the frame from its other bytes:
each is accepted, and the last one completes. -/
theorem run_captures {F : Frame} (hF : F.tagged) (rest : List PortWord) (l : List Byte) :
    ∀ (b : Byte) (s : State), s.phase = .hunt → s.input = byteWords (b :: l) ++ rest →
      s.cur ++ b :: l = F.toList → s.expect = BitVec.ofNat 4 (s.cur.length + 1) →
      Host.Core.run core (l.length + 1) s = .next (completed F { s with input := rest }) := by
  induction l with
  | nil =>
    intro b s hp hin hcur hx
    have hlen : s.cur.length + 1 = 14 := by simpa [Frame.toList] using congrArg List.length hcur
    have h14 : s.expect = 14 := by rw [hx, hlen]; rfl
    have hb : ¬ Mismatches b { s with input := rest } := by
      have ht : tagOf b = s.expect := (tagOf_of_tagged hF hcur).trans hx.symm
      simp [Mismatches, ht, h14]
    exact run_of_step ((step_of_byte hin).trans (exec_decodeByte_iff.mpr (.completes F hp hb h14 hcur))) rfl
  | cons b' l ih =>
    intro b s hp hin hcur hx
    have hlen : s.cur.length + (l.length + 2) = 14 := by simpa [Frame.toList] using congrArg List.length hcur
    have hlt : s.cur.length + 1 < 14 := by omega
    have hnat : s.expect.toNat = s.cur.length + 1 := by
      rw [hx, BitVec.toNat_ofNat, Nat.mod_eq_of_lt (by omega)]
    have hne : s.expect ≠ 14 := fun h => by simp [h] at hnat; omega
    let taken : State := { s with input := byteWords (b' :: l) ++ rest }
    have hb : ¬ Mismatches b taken := by
      have ht : tagOf b = taken.expect := (tagOf_of_tagged hF hcur).trans hx.symm
      have h1 : I1 taken := by
        change 1 ≤ s.expect.toNat ∧ s.expect.toNat ≤ 14
        omega
      exact fun h => (mismatches_iff h1).mp h ht
    have hstep : step s = .next (accept b taken) :=
      (step_of_byte hin).trans (exec_decodeByte_iff.mpr (.accepted hp hb hne))
    have hcur' : (accept b taken).cur ++ b' :: l = F.toList := by simpa [taken] using hcur
    have hx' : (accept b taken).expect = BitVec.ofNat 4 ((accept b taken).cur.length + 1) := by
      simp [taken, hx, BitVec.ofNat_add]
    exact run_of_step hstep (ih b' (accept b taken) hp rfl hcur' hx')

theorem step_of_start {s : State} {m : Nat} {rest : List PortWord} (h : s.input = encode (.start m) :: rest)
    (hm : m < 2 ^ s.config.attW) (hp : s.phase = .idle) :
    step s = .next (startCapture m { s with input := rest }) :=
  (step_of_decode h (decode_encode _)).trans (execStart_idle hm hp)

/-- Settles O33: `START` empties the buffer, which the frame's bytes fill. -/
theorem cleanFrameIsCaptured : Obligations.CleanFrameIsCaptured := by
  intro s m F rest hp hF hm hin
  let started := startCapture m { s with input := byteWords F.toList ++ rest }
  have hstep : step s = .next started := step_of_start hin hm hp
  exact run_of_step hstep (run_captures hF rest (frameTail F 13) F.f1 started rfl rfl rfl rfl)

/-- In `IDLE` offered bytes pass by, one a step (assumption log 3). -/
theorem run_idle_bytes (rest : List PortWord) (l : List Byte) :
    ∀ s : State, s.phase = .idle → s.input = byteWords l ++ rest →
      ∃ u, Host.Core.run core l.length s = .next u ∧ u.registers = s.registers ∧ u.input = rest := by
  induction l with
  | nil => exact fun s _ hin => ⟨s, rfl, rfl, hin⟩
  | cons b l ih =>
    intro s hp hin
    let passed := notEnabled { s with input := byteWords l ++ rest }
    have hstep : step s = .next passed := (step_of_byte hin).trans (exec_decodeByte_idle hp)
    obtain ⟨u, hu, hregs, hrest⟩ := ih passed hp rfl
    exact ⟨u, run_of_step hstep hu, hregs, hrest⟩

/-- Settles O34: at `expect` 1 there is no candidate yet and the frame fills one; elsewhere its first byte mismatches
and, below the limit, is kept as the first byte of a new candidate. -/
theorem resyncReturnsValidFrame : Obligations.ResyncReturnsValidFrame := by
  intro s m F rest hs hp hm hF hin k'
  have h1 : tagOf F.f1 = 1 := tagOf_of_tagged (l := []) (r := frameTail F 13) hF rfl
  have hlimit := hs.discards_lt_limit hp hm
  by_cases hx : s.expect = 1
  · have hk : k' = s.discards := if_pos hx
    have hcur : s.cur = [] := by
      have hlen := hs.i2.1
      rw [hx] at hlen
      exact List.length_eq_zero_iff.mp (Nat.succ.inj hlen)
    rw [hk]
    refine ⟨fun _ => ?_, fun hk1 hl => by omega⟩
    exact run_captures hF rest (frameTail F 13) F.f1 s hp hin (by rw [hcur]; rfl) hs.i2.expect_eq
  · have hk : k' = s.discards + 1 := if_neg hx
    let taken : State := { s with input := byteWords (frameTail F 13) ++ rest }
    have hb : Mismatches F.f1 taken := .inl (h1.trans_ne (Ne.symm hx))
    rw [hk]
    refine ⟨fun hl => ?_, fun _ hl => ?_⟩
    · have hstep : step s = .next (restart F.f1 (discard taken)) :=
        (step_of_byte hin).trans (exec_decodeByte_iff.mpr (.restarted m hp hb hm hl))
      rw [restart_candidate h1] at hstep
      exact run_of_step hstep (run_captures hF rest (frameTail F 12) F.f2 _ hp rfl rfl rfl)
    · let ended := raiseExc .syncAttempts (discard taken)
      have hstep : step s = .next ended :=
        (step_of_byte hin).trans (exec_decodeByte_iff.mpr (.exhausted m hp hb hm hl))
      obtain ⟨u, hu, hregs, hrest⟩ := run_idle_bytes rest (frameTail F 13) ended rfl rfl
      refine ⟨ended, hstep, ?_, rfl, u, run_of_step hstep hu, hregs, hrest⟩
      rw [← hs.exhausted_count hp hm hl]
      rfl

/-- Settles O53: the arbiter puts `XFAIL` before the byte, which then finds the block in `IDLE`. -/
theorem transportBeatsByte : Obligations.TransportBeatsByte := by
  intro s b hp hin
  have horder : (offerTogether [byteWord b, encode .xfail] s).input = [encode .xfail, byteWord b] := by
    simp [offerTogether, hin, arbitrate, ofRank, offerRank, encode, byteWord]
  exact run_of_step ((step_of_decode horder (decode_encode _)).trans (asyncEvent_hunt hp)) <|
    run_of_step ((step_of_byte rfl).trans (exec_decodeByte_idle rfl)) rfl

theorem step_of_reset {s : State} {rest : List PortWord} (h : s.input = encode .reset :: rest) :
    step s = .next (resetBlock { s with input := rest }) :=
  (step_of_decode h (decode_encode _)).trans (exec_reset _)

/-- Settles O57: the events run as `RESET` and `START`; what a call returns is read off the outcome. -/
theorem hostCallsAsEvents : Obligations.HostCallsAsEvents := by
  refine ⟨fun s retries rest hm hin => ?_, fun _ _ _ _ => rfl, fun _ _ _ _ => ⟨rfl, rfl⟩,
    fun s ses rest hp hm hin => ?_, fun _ _ _ => rfl, fun _ _ _ => ⟨rfl, rfl⟩, fun _ => rfl⟩
  · exact ⟨startCapture retries { resetBlock s with input := rest },
      run_of_step (step_of_reset hin) (run_of_step (step_of_start rfl hm rfl) rfl), rfl, rfl⟩
  · exact ⟨startCapture ses.retries { s with input := rest }, step_of_start hin hm hp, rfl, rfl⟩

end Sys2Proof.Machine
end

section
/-! PROOFS, the decode operations: the slots, the flag bytes, the segment keys and the flag bits on the workspace, and
the ten operations of a frame in a run (spec/42_decode_digits.md R171 to R182, spec/43_decode_flags.md R202 to R210). -/

namespace Sys2Proof.Machine

/-- The flag bit of a slot word is the high bit of its first nibble (R84). -/
theorem slotFlag_append (a c : Nibble) : slotFlag (a ++ c) = a.getLsbD 3 := by
  revert a c; decide

/-- The key of a slot word is the rest of its first nibble and its second one (R85). -/
theorem slotKey_append (a c : Nibble) : slotKey (a ++ c) = (a.extractLsb' 0 3 ++ c : BitVec (3 + 4)) := by
  revert a c; decide

/-- A look-up that finds an entry (R172). -/
theorem slotOut_of_some {c : Config} {key : SegKey} {ch : DisplayChar} (fb : Bool)
    (h : c.segTable key = some ch) : slotOut c fb key = ⟨fb, key, .char ch, true⟩ := by
  simp only [slotOut, segRead, h]

/-- A look-up that finds none (R172). -/
theorem slotOut_of_none {c : Config} {key : SegKey} (fb : Bool) (h : c.segTable key = none) :
    slotOut c fb key = ⟨fb, key, .invalid, false⟩ := by
  simp only [slotOut, segRead, h]

/-- A slot operation that is `slotOp` of its slot keeps the slot's rule. -/
theorem slotRule_of_slotOp {n : SlotNo} {op : Bool → SegKey → Instr}
    (hdec : ∀ w, decodeSlotWord n w = op (slotFlag w) (slotKey w))
    (hexec : ∀ fb key s, exec (op fb key) s = .next (slotOp s.config n fb key s)) :
    SlotRule n op (writeSlot n) := by
  intro a c s fb key
  have hword : decode (.slot n (a ++ c)) = .ok (op fb key) := by
    rw [decode, hdec, slotFlag_append, slotKey_append]
  refine ⟨hword, fun ch hch => ?_, fun hch => ?_⟩
  · rw [hexec, slotOp, slotOut_of_some fb hch, setWork]
  · rw [hexec, slotOp, slotOut_of_none fb hch, setWork]

/-- Settles O35: each of the four is `slotOp` of its slot. -/
theorem slotOperationsWriteTheirSlot : Obligations.SlotOperationsWriteTheirSlot :=
  ⟨slotRule_of_slotOp (n := .s1) (fun _ => rfl) fun _ _ _ => rfl,
    slotRule_of_slotOp (n := .s2) (fun _ => rfl) fun _ _ _ => rfl,
    slotRule_of_slotOp (n := .s3) (fun _ => rfl) fun _ _ _ => rfl,
    slotRule_of_slotOp (n := .s4) (fun _ => rfl) fun _ _ _ => rfl⟩

/-- A flag-byte operation that is `flagsOp` of its position keeps the position's rule. -/
theorem flagByteRule_of_flagsOp {p : FlagPos} {op : Nibble → Instr}
    (hexec : ∀ b s, exec (op b) s = .next (flagsOp s.config p b s)) : FlagByteRule p (4 * posIndex p) op :=
  fun b s => ⟨matchNibble s.config p b s.work.flags, hexec b s, has_matchNibble s.config p b s.work.flags,
    matchNibble_rawFlags s.config p b s.work.flags⟩

/-- Settles O36: each of the six is `flagsOp` of its position. -/
theorem flagByteOperationsAddTheirFlags : Obligations.FlagByteOperationsAddTheirFlags :=
  ⟨flagByteRule_of_flagsOp fun _ _ => rfl, flagByteRule_of_flagsOp fun _ _ => rfl,
    flagByteRule_of_flagsOp fun _ _ => rfl, flagByteRule_of_flagsOp fun _ _ => rfl,
    flagByteRule_of_flagsOp fun _ _ => rfl, flagByteRule_of_flagsOp fun _ _ => rfl⟩

/-- A segment-key operation that is `segKeyOp` of its key keeps the key's rule. -/
theorem segKeyRule_of_segKeyOp {i : Instr} {key : SegKey} {ch : DisplayChar}
    (hexec : ∀ s, exec i s = .next (segKeyOp s.config key s))
    (href : referenceConfig.segTable key = some ch := by decide) : SegKeyRule i key ch :=
  ⟨href, hexec⟩

/-- Settles O37: each of the twelve is `segKeyOp` of its key. -/
theorem segmentKeysAreLookedUp : Obligations.SegmentKeysAreLookedUp :=
  ⟨segKeyRule_of_segKeyOp fun _ => rfl, segKeyRule_of_segKeyOp fun _ => rfl,
    segKeyRule_of_segKeyOp fun _ => rfl, segKeyRule_of_segKeyOp fun _ => rfl,
    segKeyRule_of_segKeyOp fun _ => rfl, segKeyRule_of_segKeyOp fun _ => rfl,
    segKeyRule_of_segKeyOp fun _ => rfl, segKeyRule_of_segKeyOp fun _ => rfl,
    segKeyRule_of_segKeyOp fun _ => rfl, segKeyRule_of_segKeyOp fun _ => rfl,
    segKeyRule_of_segKeyOp fun _ => rfl, segKeyRule_of_segKeyOp fun _ => rfl⟩

/-- A flag-bit operation that is `flagBitOp` of its address keeps the address's rule. -/
theorem flagBitRule_of_flagBitOp {i : Instr} {p : FlagPos} {j : Fin 4} {x : FlagId} {mask : BitVec 24}
    (hexec : ∀ s, exec i s = .next (flagBitOp s.config p j s))
    (hid : identityAt (referenceConfig.flagTable p j) p j = x := by decide)
    (hmask : BitVec.twoPow 24 (rawIndex p j) = mask := by decide) : FlagBitRule i p j x mask := by
  subst hmask
  exact ⟨hid, fun s => ⟨addFlag s.config p j s.work.flags, hexec s, has_addFlag s.config p j s.work.flags,
    addFlag_rawFlags s.config p j s.work.flags⟩⟩

/-- Settles O38: each of the 24 is `flagBitOp` of its address. -/
theorem flagBitsAddTheirIdentity : Obligations.FlagBitsAddTheirIdentity :=
  ⟨flagBitRule_of_flagBitOp fun _ => rfl, flagBitRule_of_flagBitOp fun _ => rfl,
    flagBitRule_of_flagBitOp fun _ => rfl, flagBitRule_of_flagBitOp fun _ => rfl,
    flagBitRule_of_flagBitOp fun _ => rfl, flagBitRule_of_flagBitOp fun _ => rfl,
    flagBitRule_of_flagBitOp fun _ => rfl, flagBitRule_of_flagBitOp fun _ => rfl,
    flagBitRule_of_flagBitOp fun _ => rfl, flagBitRule_of_flagBitOp fun _ => rfl,
    flagBitRule_of_flagBitOp fun _ => rfl, flagBitRule_of_flagBitOp fun _ => rfl,
    flagBitRule_of_flagBitOp fun _ => rfl, flagBitRule_of_flagBitOp fun _ => rfl,
    flagBitRule_of_flagBitOp fun _ => rfl, flagBitRule_of_flagBitOp fun _ => rfl,
    flagBitRule_of_flagBitOp fun _ => rfl, flagBitRule_of_flagBitOp fun _ => rfl,
    flagBitRule_of_flagBitOp fun _ => rfl, flagBitRule_of_flagBitOp fun _ => rfl,
    flagBitRule_of_flagBitOp fun _ => rfl, flagBitRule_of_flagBitOp fun _ => rfl,
    flagBitRule_of_flagBitOp fun _ => rfl, flagBitRule_of_flagBitOp fun _ => rfl⟩

/-- A step on the word of a slot. -/
theorem step_of_slot {s : State} {n : SlotNo} {w : BitVec 8} {rest : List PortWord}
    (h : s.input = .slot n w :: rest) :
    step s = .next (slotOp s.config n (slotFlag w) (slotKey w) { s with input := rest }) := by
  rw [step_of_decode h rfl]
  cases n <;> rfl

/-- A step on the nibble of a flag position. -/
theorem step_of_flagNibble {s : State} {p : FlagPos} {b : Nibble} {rest : List PortWord}
    (h : s.input = .flagNibble p b :: rest) :
    step s = .next (flagsOp s.config p b { s with input := rest }) := by
  rw [step_of_decode h rfl]
  cases p <;> rfl

/-- The workspace after a frame's ten decode operations. -/
def frameWork (c : Config) (F : Frame) (w : DecodeWork) : DecodeWork where
  slot1 := some (frameSlot c F .s1)
  slot2 := some (frameSlot c F .s2)
  slot3 := some (frameSlot c F .s3)
  slot4 := some (frameSlot c F .s4)
  flags := [FlagPos.p1, .p10, .p11, .p12, .p13, .p14].foldl
    (fun fs p => matchNibble c p (F.flagNibbleOf p) fs) w.flags
  seg := w.seg

/-- A slot operation among decode operations: one write more to the workspace. -/
theorem step_setWork_slot (s : State) (w : DecodeWork) (n : SlotNo) (x : BitVec 8) (rest : List PortWord) :
    step (setWork w { s with input := .slot n x :: rest }) =
      .next (setWork (writeSlot n (slotOut s.config (slotFlag x) (slotKey x)) w) { s with input := rest }) :=
  step_of_slot rfl

/-- A flag-byte operation among decode operations: one write more to the workspace. -/
theorem step_setWork_flagNibble (s : State) (w : DecodeWork) (p : FlagPos) (b : Nibble) (rest : List PortWord) :
    step (setWork w { s with input := .flagNibble p b :: rest }) =
      .next (setWork { w with flags := matchNibble s.config p b w.flags } { s with input := rest }) :=
  step_of_flagNibble rfl

/-- The ten decode operations of a frame write their workspace and nothing else. -/
theorem run_decodeOps {s : State} {F : Frame} {rest : List PortWord} (h : s.input = decodeOps F ++ rest) :
    Host.Core.run core 10 s = .next (setWork (frameWork s.config F s.work) { s with input := rest }) :=
  run_of_step (step_of_slot h) <| run_of_step (step_setWork_slot s _ _ _ _) <|
    run_of_step (step_setWork_slot s _ _ _ _) <| run_of_step (step_setWork_slot s _ _ _ _) <|
    run_of_step (step_setWork_flagNibble s _ _ _ _) <| run_of_step (step_setWork_flagNibble s _ _ _ _) <|
    run_of_step (step_setWork_flagNibble s _ _ _ _) <| run_of_step (step_setWork_flagNibble s _ _ _ _) <|
    run_of_step (step_setWork_flagNibble s _ _ _ _) <| run_of_step (step_setWork_flagNibble s _ _ _ _) rfl

/-- Settles O39: the slots hold the frame's slots, and the flag bytes are matched in the order of `frameFlags`. -/
theorem decodeOperationsDecodeTheFrame : Obligations.DecodeOperationsDecodeTheFrame := by
  intro s F rest hin hwork
  refine ⟨_, run_decodeOps hin, rfl, rfl, rfl, ?_⟩
  rw [hwork]
  rfl

end Sys2Proof.Machine
end

section
/-! PROOFS, the tables: the key of a character and back under an admissible table, the frame `DISPLAY` builds, the
identities a table holds as bits, and the arbiter's ranks (spec/42_decode_digits.md R174, spec/30_encoding.md R97,
spec/43_decode_flags.md R212, spec/60_exceptions.md R269). -/

namespace Sys2Proof.Machine

/-- R174 item 2: no key has two entries. -/
theorem keys_nodup_of_segOk {c : Config} (h : c.segOk = true) : (c.segRows.map (·.1)).Nodup := by
  simp only [Config.segOk, Bool.and_eq_true, decide_eq_true_eq] at h
  exact h.1

theorem mem_allChars (ch : DisplayChar) : ch ∈ allChars := by
  cases ch <;> simp [allChars]

/-- R174 item 3: every character has exactly one entry. -/
theorem count_of_segOk {c : Config} (h : c.segOk = true) (ch : DisplayChar) :
    (c.segRows.map (·.2)).count ch = 1 := by
  simp only [Config.segOk, Bool.and_eq_true, List.all_eq_true, beq_iff_eq] at h
  exact h.2 ch (mem_allChars ch)

/-- A key that shows a character has an entry for it. -/
theorem mem_segRows_of_segTable {c : Config} {k : SegKey} {ch : DisplayChar} (h : c.segTable k = some ch) :
    (k, ch) ∈ c.segRows := by
  obtain ⟨⟨k', ch'⟩, hfind, rfl⟩ := Option.map_eq_some_iff.mp h
  obtain rfl : k' = k := by simpa using List.find?_some hfind
  exact List.mem_of_find?_eq_some hfind

/-- An entry is what the look-up of its key finds. -/
theorem segTable_of_mem {c : Config} (hc : c.segOk = true) {k : SegKey} {ch : DisplayChar}
    (h : (k, ch) ∈ c.segRows) : c.segTable k = some ch := by
  have hsome : (c.segTable k).isSome = true := by
    simp only [Config.segTable, Option.isSome_map, List.find?_isSome]
    exact ⟨(k, ch), h, by simp⟩
  obtain ⟨ch', hch'⟩ := Option.isSome_iff_exists.mp hsome
  have heq : (k, ch') = (k, ch) :=
    List.inj_on_of_nodup_map (keys_nodup_of_segOk hc) (mem_segRows_of_segTable hch') h rfl
  rw [hch', (Prod.mk.inj heq).2]

/-- The key of a character, which shows the character (R97, R174). -/
theorem exists_keyFor {c : Config} (hc : c.segOk = true) (ch : DisplayChar) :
    ∃ k, keyFor c ch = some k ∧ c.segTable k = some ch := by
  have hmem : ch ∈ c.segRows.map (·.2) := by
    rw [← List.count_pos_iff, count_of_segOk hc ch]
    exact Nat.one_pos
  obtain ⟨row, hrow, hch⟩ := List.mem_map.mp hmem
  have hsome : (keyFor c ch).isSome = true := by
    simp only [keyFor, Option.isSome_map, List.find?_isSome]
    exact ⟨row, hrow, by simp [hch]⟩
  obtain ⟨k, hk⟩ := Option.isSome_iff_exists.mp hsome
  refine ⟨k, hk, ?_⟩
  obtain ⟨⟨k', ch'⟩, hfind, rfl⟩ := Option.map_eq_some_iff.mp hk
  obtain rfl : ch' = ch := by simpa using List.find?_some hfind
  exact segTable_of_mem hc (List.mem_of_find?_eq_some hfind)

/-- Two keys that show the same character are equal. -/
theorem segTable_injective {c : Config} (hc : c.segOk = true) {k₁ k₂ : SegKey} (h₁ : c.segTable k₁ ≠ none)
    (h : c.segTable k₁ = c.segTable k₂) : k₁ = k₂ := by
  obtain ⟨ch, hch⟩ := Option.ne_none_iff_exists'.mp h₁
  have hone : ∀ ch', (c.segRows.map (·.2)).count ch' ≤ 1 := fun ch' => (count_of_segOk hc ch').le
  have heq : (k₁, ch) = (k₂, ch) :=
    List.inj_on_of_nodup_map (List.nodup_iff_count_le_one.mpr hone) (mem_segRows_of_segTable hch)
      (mem_segRows_of_segTable (h ▸ hch)) rfl
  exact (Prod.mk.inj heq).1

/-- Settles O50: the checks run on the reference tables, and R174 makes the look-up injective on its keys. -/
theorem referenceTablesAdmissible : Obligations.ReferenceTablesAdmissible :=
  ⟨by decide, rfl, fun _ _ => segTable_injective (by decide)⟩

/-- The two nibbles of a slot are its word (R84, R97). -/
theorem firstNibble_append_secondNibble (fb : Bool) (key : SegKey) :
    firstNibble fb key ++ secondNibble key = slotWordOf fb key := by
  revert fb key; decide

/-- Four bits side by side, the lowest last. -/
theorem getLsbD_four_bits (b3 b2 b1 b0 : Bool) (j : Fin 4) :
    (BitVec.ofBool b3 ++ BitVec.ofBool b2 ++ BitVec.ofBool b1 ++ BitVec.ofBool b0).getLsbD j.val =
      [b0, b1, b2, b3].get j := by
  revert b3 b2 b1 b0 j; decide

/-- Bit `j` of a flag nibble is set when the identity at its address is named (R97). -/
theorem getLsbD_flagNibbleFor (c : Config) (flags : List FlagId) (p : FlagPos) (j : Fin 4) :
    (flagNibbleFor c flags p).getLsbD j.val = flags.contains (identityAt (c.flagTable p j) p j) := by
  rw [flagNibbleFor, getLsbD_four_bits]
  fin_cases j <;> rfl

theorem frameOf_tagged (d1 d2 d3 d4 d5 d6 d7 d8 d9 d10 d11 d12 d13 d14 : Nibble) :
    (frameOf d1 d2 d3 d4 d5 d6 d7 d8 d9 d10 d11 d12 d13 d14).tagged := by
  simp only [Frame.tagged, tagsInOrder, Frame.toList, frameOf, List.map_cons, List.map_nil, tagOf_byteOf]
  rfl

/-- A slot with the two nibbles of a flag bit and a key decodes to them and to what the key shows (R171, R172). -/
theorem frameSlot_of_nibbles {c : Config} {F : Frame} {s : SlotNo} {fb : Bool} {key : SegKey} {ch : DisplayChar}
    (hfirst : (F.slotNibbles s).1 = firstNibble fb key) (hsecond : (F.slotNibbles s).2 = secondNibble key)
    (hch : c.segTable key = some ch) : frameSlot c F s = ⟨fb, key, .char ch, true⟩ := by
  have hword : F.slotWord s = slotWordOf fb key := by
    rw [Frame.slotWord, hfirst, hsecond, firstNibble_append_secondNibble]
  rw [frameSlot, Frame.slotFb, Frame.slotKeyOf, hword, slotFlag_slotWordOf, slotKey_slotWordOf,
    slotOut_of_some fb hch]

/-- Settles O49: each slot holds the nibbles of its character's key, which the table shows as the character. -/
theorem displayRoundTrip : Obligations.DisplayRoundTrip := by
  intro c sign dp2 dp3 dp4 c1 c2 c3 c4 flags hc
  obtain ⟨k1, hk1, hc1⟩ := exists_keyFor hc c1
  obtain ⟨k2, hk2, hc2⟩ := exists_keyFor hc c2
  obtain ⟨k3, hk3, hc3⟩ := exists_keyFor hc c3
  obtain ⟨k4, hk4, hc4⟩ := exists_keyFor hc c4
  let F := frameOf (flagNibbleFor c flags .p1)
    (firstNibble sign k1) (secondNibble k1) (firstNibble dp2 k2) (secondNibble k2)
    (firstNibble dp3 k3) (secondNibble k3) (firstNibble dp4 k4) (secondNibble k4)
    (flagNibbleFor c flags .p10) (flagNibbleFor c flags .p11) (flagNibbleFor c flags .p12)
    (flagNibbleFor c flags .p13) (flagNibbleFor c flags .p14)
  have hF : displayFrame c sign c1 c2 c3 c4 dp2 dp3 dp4 flags = some F := by
    simp only [displayFrame, hk1, hk2, hk3, hk4, F]
  have h1 : frameSlot c F .s1 = ⟨sign, k1, .char c1, true⟩ :=
    frameSlot_of_nibbles (dataOf_byteOf _ _) (dataOf_byteOf _ _) hc1
  have h2 : frameSlot c F .s2 = ⟨dp2, k2, .char c2, true⟩ :=
    frameSlot_of_nibbles (dataOf_byteOf _ _) (dataOf_byteOf _ _) hc2
  have h3 : frameSlot c F .s3 = ⟨dp3, k3, .char c3, true⟩ :=
    frameSlot_of_nibbles (dataOf_byteOf _ _) (dataOf_byteOf _ _) hc3
  have h4 : frameSlot c F .s4 = ⟨dp4, k4, .char c4, true⟩ :=
    frameSlot_of_nibbles (dataOf_byteOf _ _) (dataOf_byteOf _ _) hc4
  have hflag : ∀ p, F.flagNibbleOf p = flagNibbleFor c flags p := by
    intro p
    cases p <;> exact dataOf_byteOf _ _
  refine ⟨F, hF, frameOf_tagged .., ?_⟩
  simp only [decodeFrame, digitsOf, h1, h2, h3, h4, Frame.flagSet, hflag, getLsbD_flagNibbleFor, implies_true,
    and_self]

/-- Two sets in their one form with the same members are equal. -/
theorem rising_ext {α : Type} {code : α → Nat} (hc : Function.Injective code) {l l' : List α}
    (h : rising code l) (h' : rising code l') (hmem : ∀ x, x ∈ l ↔ x ∈ l') : l = l' := by
  refine List.map_injective_iff.mpr hc (List.Pairwise.eq_of_mem_iff h h' fun n => ?_)
  simp only [List.mem_map, hmem]

/-- The identities a table holds are as many as are picked, where none is picked twice. -/
theorem length_tableIds {α : Type} {code : α → Nat} (hc : Function.Injective code)
    {pick : FlagPos × Fin 4 → Option α} (h : (allFlagAddrs.filterMap pick).Nodup) :
    (tableIds code pick).length = (allFlagAddrs.filterMap pick).length :=
  ((List.perm_ext_iff_of_nodup (tableIds_nodup pick) h).mpr fun _ => mem_foldr_setInsert hc _ _).length_eq

theorem allFlagAddrs_nodup : allFlagAddrs.Nodup := by decide

theorem pickUnit_eq_some_iff (e : FlagEntry) (u : UnitId) : pickUnit e = some u ↔ e = .unit u := by
  cases e <;> simp [pickUnit]

theorem pickMode_eq_some_iff (e : FlagEntry) (m : ModeId) : pickMode e = some m ↔ e = .mode m := by
  cases e <;> simp [pickMode]

/-- R203 item 3: an admissible table has four reserved addresses. -/
theorem length_reservedIds {c : Config} (h : c.wf = true) : (reservedIds c).length = 4 := by
  have hpick : allFlagAddrs.filterMap (fun a => if c.flagTable a.1 a.2 = .reserved then some a else none) =
      allFlagAddrs.filter fun a => c.flagTable a.1 a.2 = .reserved := by
    simpa [Option.guard] using
      congrFun (List.filterMap_eq_filter (p := fun a : FlagPos × Fin 4 => decide (c.flagTable a.1 a.2 = .reserved)))
        allFlagAddrs
  have hcount : c.flagCount .reserved = 4 := by
    simp only [Config.wf, Config.reservedOk, Bool.and_eq_true, beq_iff_eq] at h
    exact h.1.2
  rw [reservedIds, length_tableIds reservedCode_injective (hpick ▸ allFlagAddrs_nodup.filter _), hpick]
  exact hcount

/-- Settles O56: a bit of a hardware form is a membership, and the bits are what the table holds, each once. -/
theorem setsInHardwareForm : Obligations.SetsInHardwareForm := by
  refine ⟨fun c F => ⟨fun x => ?_, fun x => ?_, fun k h => getLsbD_memberBits _ _ k h,
    fun k h => getLsbD_memberBits _ _ k h, fun k h => getLsbD_memberBits _ _ k h⟩,
    fun c => ⟨fun u => ?_, tableIds_nodup _, fun m => ?_, tableIds_nodup _, fun p j => ?_, tableIds_nodup _,
      length_reservedIds⟩, by decide, by decide, by decide⟩
  · cases x
    · exact getLsbD_memberBits _ _ 0 (by decide)
    · exact getLsbD_memberBits _ _ 1 (by decide)
    · exact getLsbD_memberBits _ _ 2 (by decide)
    · exact getLsbD_memberBits _ _ 3 (by decide)
    · exact getLsbD_memberBits _ _ 4 (by decide)
  · cases x
    · exact getLsbD_memberBits _ _ 0 (by decide)
    · exact getLsbD_memberBits _ _ 1 (by decide)
    · exact getLsbD_memberBits _ _ 2 (by decide)
    · exact getLsbD_memberBits _ _ 3 (by decide)
  · simp only [unitIds, mem_tableIds unitCode_injective, pickUnit_eq_some_iff]
  · simp only [modeIds, mem_tableIds modeCode_injective, pickMode_eq_some_iff]
  · simp [reservedIds, mem_tableIds reservedCode_injective]

/-- The order of R269 has six ranks. -/
theorem offerRank_lt (w : PortWord) : offerRank w < 6 := by
  cases w with
  | iw w =>
    simp only [offerRank]
    split <;> decide
  | pin | startEvent | slot | flagNibble | segKey | flagBit => simp [offerRank]

theorem offerRank_of_mem_ofRank {r : Nat} {w : PortWord} {ws : List PortWord} (h : w ∈ ofRank r ws) :
    offerRank w = r := by
  simpa using (List.mem_filter.mp h).2

theorem count_ofRank (r : Nat) (w : PortWord) (ws : List PortWord) :
    (ofRank r ws).count w = if offerRank w = r then ws.count w else 0 := by
  split
  next h => exact List.count_filter (by simpa using h)
  next h => exact List.count_eq_zero.mpr fun hw => h (offerRank_of_mem_ofRank hw)

/-- The arbiter loses no offer and invents none: each is in the list of its own rank. -/
theorem arbitrate_perm (ws : List PortWord) : (arbitrate ws).Perm ws := by
  refine List.perm_iff_count.mpr fun w => ?_
  have hrank := offerRank_lt w
  simp only [arbitrate, List.count_append, count_ofRank]
  generalize offerRank w = r at hrank ⊢
  interval_cases r <;> simp

/-- The lists of the ranks follow each other. -/
theorem arbitrate_sorted (ws : List PortWord) :
    (arbitrate ws).Pairwise fun a b => offerRank a ≤ offerRank b := by
  have hranks : arbitrate ws = [0, 1, 2, 3, 4, 5].flatMap fun r => ofRank r ws := by
    simp [arbitrate]
  have hle : ∀ r r', r ≤ r' → ∀ a ∈ ofRank r ws, ∀ b ∈ ofRank r' ws, offerRank a ≤ offerRank b := by
    intro r r' h a ha b hb
    rwa [offerRank_of_mem_ofRank ha, offerRank_of_mem_ofRank hb]
  rw [hranks, List.pairwise_flatMap]
  refine ⟨fun r _ => List.pairwise_of_forall_mem_list (hle r r le_rfl), ?_⟩
  exact List.Pairwise.imp (hle _ _) (by decide)

/-- The rank of an offered `START` is 3, in either of its two words. -/
theorem offerRank_encode_start (m : Nat) : offerRank (encode (.start m)) = 3 := by
  obtain hm | hm := Nat.lt_or_ge m 256
  · simp [encode_start_narrow hm, offerRank]
  · simp [encode_start_wide hm, offerRank]

theorem offerRank_byteWord (b : Byte) : offerRank (byteWord b) = 4 := by
  simp [offerRank, byteWord]

/-- Settles O52: the arbiter sorts by rank, and the ranks are in the order of R269. -/
theorem arbiterOrdersOffers : Obligations.ArbiterOrdersOffers := by
  refine ⟨fun ws => ⟨arbitrate_perm ws, arbitrate_sorted ws⟩, fun _ => Nat.one_pos, by decide, fun m => ?_,
    fun m b => ?_⟩
  · rw [offerRank_encode_start]
    decide
  · rw [offerRank_encode_start, offerRank_byteWord]
    decide

end Sys2Proof.Machine
end

section
/-! PROOFS, the numeric value: its mantissa and exponent, the display string read as a real number, and what reserved
flag bits leave alone (spec/44_assemble_sanity.md R236 to R238, spec/30_encoding.md R91). -/

namespace Sys2Proof.Machine

/-- A numeric value is made of the sign, a mantissa, a scale exponent and the digits after the point (R235 to R238). -/
theorem numericOf_eq_some {f : Fields} {v : Numeric} (h : numericOf f = some v) :
    ∃ m e, mantissaOf f.digits = some m ∧ scaleExpOf f.flags.scaleSet = some e ∧ multiDp f = false ∧
      v = ⟨f.digits.sign, m, e - fracOf f.digits.dp⟩ := by
  unfold numericOf at h
  split at h
  next m e hm he =>
    cases hdp : multiDp f with
    | true => simp [hdp] at h
    | false => exact ⟨m, e, hm, he, rfl, by simpa [hdp] using h.symm⟩
  next => cases h

theorem digit_of_digitValue {o : SlotChar} {n : Nat} (h : digitValue o = some n) :
    ∃ k : Fin 10, o = .char (.digit k) ∧ n = k.val := by
  unfold digitValue at h
  split at h <;> cases h
  exact ⟨_, rfl, rfl⟩

/-- A mantissa has its four digits (R236). -/
theorem mantissaOf_eq_some {d : Digits} {m : Nat} (h : mantissaOf d = some m) :
    ∃ k1 k2 k3 k4 : Fin 10, d.slot1.ch = .char (.digit k1) ∧ d.slot2.ch = .char (.digit k2) ∧
      d.slot3.ch = .char (.digit k3) ∧ d.slot4.ch = .char (.digit k4) ∧
      m = 1000 * k1.val + 100 * k2.val + 10 * k3.val + k4.val := by
  unfold mantissaOf at h
  split at h
  next h1 h2 h3 h4 =>
    obtain ⟨k1, hk1, rfl⟩ := digit_of_digitValue h1
    obtain ⟨k2, hk2, rfl⟩ := digit_of_digitValue h2
    obtain ⟨k3, hk3, rfl⟩ := digit_of_digitValue h3
    obtain ⟨k4, hk4, rfl⟩ := digit_of_digitValue h4
    exact ⟨k1, k2, k3, k4, hk1, hk2, hk3, hk4, by simpa using h.symm⟩
  next => cases h

/-- A slot whose key shows a digit has the digit as its character (R172). -/
theorem frameSlot_ch_of_some {c : Config} {F : Frame} {s : SlotNo} {ch : DisplayChar}
    (h : c.segTable (F.slotKeyOf s) = some ch) : (frameSlot c F s).ch = .char ch := by
  rw [frameSlot, slotOut_of_some _ h]

/-- The exponents of R237, each with the one scale flag it stands for. -/
theorem scaleExpOf_eq_some {l : List ScaleId} {e : Int} (h : scaleExpOf l = some e) :
    (l = [] ∧ e = 0) ∨ (l = [.nano] ∧ e = -9) ∨ (l = [.micro] ∧ e = -6) ∨ (l = [.milli] ∧ e = -3) ∨
      (l = [.kilo] ∧ e = 3) ∨ (l = [.mega] ∧ e = 6) := by
  match l with
  | [] => cases h; simp
  | [p] => cases p <;> cases h <;> simp [scaleExp]
  | _ :: _ :: _ => cases h

/-- At most three digits stand after the point (R238). -/
theorem fracOf_dpOf_bounds (b2 b3 b4 : Bool) : 0 ≤ fracOf (dpOf b2 b3 b4) ∧ fracOf (dpOf b2 b3 b4) ≤ 3 := by
  revert b2 b3 b4; decide

/-- Settles O44: the value's mantissa is that of the four digits, and its exponent a scale exponent less 0 to 3. -/
theorem numericMantissaAndExponent : Obligations.NumericMantissaAndExponent := by
  intro c F n v d1 d2 d3 d4 hv h1 h2 h3 h4
  obtain ⟨m, e, hm, he, -, rfl⟩ := numericOf_eq_some hv
  have hscale := scaleExpOf_eq_some he
  obtain ⟨hfrac, hfrac3⟩ := fracOf_dpOf_bounds (frameSlot c F .s2).fb (frameSlot c F .s3).fb (frameSlot c F .s4).fb
  have hmant : m = 1000 * d1.val + 100 * d2.val + 10 * d3.val + d4.val := by
    simpa [mantissaOf, decodeFrame, digitsOf, digitValue, frameSlot_ch_of_some h1, frameSlot_ch_of_some h2,
      frameSlot_ch_of_some h3, frameSlot_ch_of_some h4] using hm.symm
  have hle : -9 ≤ e ∧ e ≤ 6 := by omega
  refine ⟨rfl, hmant, ?_, ⟨e, hscale, ?_⟩, ?_, ?_⟩
  · change m ≤ 9999
    omega
  · change e - fracOf (decodeFrame c F).digits.dp = _
    cases (decodeFrame c F).digits.dp <;> rfl
  · change -12 ≤ e - fracOf (dpOf _ _ _)
    omega
  · change e - fracOf (dpOf _ _ _) ≤ 6
    omega

theorem readNumeral_nil (m : Nat) (f : Option Nat) : readNumeral [] m f = some (m, f) := rfl

/-- A printed digit is read as itself (R93). -/
theorem readNumeral_digit (k : Fin 10) (cs : List Char) (m : Nat) (f : Option Nat) :
    readNumeral (glyph (.char (.digit k)) :: cs) m f = readNumeral cs (10 * m + k.val) (f.map (· + 1)) := by
  have hpoint : ∀ k : Fin 10, glyph (.char (.digit k)) ≠ '.' := by decide
  have hdigit : ∀ k : Fin 10, charDigit (glyph (.char (.digit k))) = some k.val := by decide
  simp only [readNumeral, if_neg (hpoint k), hdigit]

/-- A point is read once. -/
theorem readNumeral_point (cs : List Char) (m : Nat) :
    readNumeral ('.' :: cs) m none = readNumeral cs m (some 0) := rfl

/-- What follows the first digit in the display of four digits (R234). -/
def afterFirstDigit (k2 k3 k4 : Fin 10) (b2 b3 b4 : Bool) : List Char :=
  onlyIf b2 '.' ++ glyph (.char (.digit k2)) ::
    (onlyIf b3 '.' ++ glyph (.char (.digit k3)) :: (onlyIf b4 '.' ++ [glyph (.char (.digit k4))]))

/-- The display of four digits: the sign, the first digit and what follows it. -/
theorem rawValOf_digits {d : Digits} {k1 k2 k3 k4 : Fin 10} (h1 : d.slot1.ch = .char (.digit k1))
    (h2 : d.slot2.ch = .char (.digit k2)) (h3 : d.slot3.ch = .char (.digit k3))
    (h4 : d.slot4.ch = .char (.digit k4)) :
    rawValOf d = onlyIf d.sign '-' ++ glyph (.char (.digit k1)) ::
      afterFirstDigit k2 k3 k4 d.dpbit2 d.dpbit3 d.dpbit4 := by
  simp only [rawValOf, afterFirstDigit, h1, h2, h3, h4, List.append_assoc, List.cons_append, List.nil_append]

theorem dpCount_le_one_cases : ∀ b2 b3 b4 : Bool, dpCount b2 b3 b4 ≤ 1 →
    (b2, b3, b4) = (false, false, false) ∨ (b2, b3, b4) = (true, false, false) ∨
      (b2, b3, b4) = (false, true, false) ∨ (b2, b3, b4) = (false, false, true) := by
  decide

/-- Four printed digits with at most one point are read as the mantissa, with the digits after the point counted
(R234, R238). -/
theorem readNumeral_display (k1 k2 k3 k4 : Fin 10) {b2 b3 b4 : Bool} (h : dpCount b2 b3 b4 ≤ 1) :
    ∃ f, readNumeral (glyph (.char (.digit k1)) :: afterFirstDigit k2 k3 k4 b2 b3 b4) 0 none =
        some (1000 * k1.val + 100 * k2.val + 10 * k3.val + k4.val, f) ∧
      ((f.getD 0 : Nat) : Int) = fracOf (dpOf b2 b3 b4) := by
  have hsum : 10 * (10 * (10 * (10 * 0 + k1.val) + k2.val) + k3.val) + k4.val =
      1000 * k1.val + 100 * k2.val + 10 * k3.val + k4.val := by omega
  rw [← hsum]
  obtain hb | hb | hb | hb := dpCount_le_one_cases b2 b3 b4 h <;> cases hb
  · exact ⟨none, by simp [afterFirstDigit, onlyIf, readNumeral_digit, readNumeral_nil], rfl⟩
  · exact ⟨some 3, by simp [afterFirstDigit, onlyIf, readNumeral_digit, readNumeral_point, readNumeral_nil], rfl⟩
  · exact ⟨some 2, by simp [afterFirstDigit, onlyIf, readNumeral_digit, readNumeral_point, readNumeral_nil], rfl⟩
  · exact ⟨some 1, by simp [afterFirstDigit, onlyIf, readNumeral_digit, readNumeral_point, readNumeral_nil], rfl⟩

/-- A sign is read off before the numeral, which begins with no sign of its own. -/
theorem parseReal_sign (sign : Bool) {ch : Char} {cs : List Char} {m : Nat} {f : Option Nat} (hc : ch ≠ '-')
    (h : readNumeral (ch :: cs) 0 none = some (m, f)) :
    parseReal (onlyIf sign '-' ++ ch :: cs) = some ((if sign then -1 else 1) * ((m : ℚ) / 10 ^ f.getD 0)) := by
  cases sign with
  | true => simp [parseReal, onlyIf, h]
  | false => simp [parseReal, onlyIf, hc, h]

/-- Settles O45: the string is read as the mantissa over the power of ten of the digits after the point. -/
theorem numericIsParsedRawVal : Obligations.NumericIsParsedRawVal := by
  intro c F n v hv
  obtain ⟨m, e, hm, he, hdp, rfl⟩ := numericOf_eq_some hv
  obtain ⟨k1, k2, k3, k4, h1, h2, h3, h4, rfl⟩ := mantissaOf_eq_some hm
  obtain ⟨f, hread, hfrac⟩ := readNumeral_display k1 k2 k3 k4 ((multiDp_eq_false_iff _).mp hdp)
  have hminus : ∀ k : Fin 10, glyph (.char (.digit k)) ≠ '-' := by decide
  have hparse := parseReal_sign (decodeFrame c F).digits.sign (hminus k1) hread
  have hdpfrac : fracOf (decodeFrame c F).digits.dp = ((f.getD 0 : Nat) : Int) := hfrac.symm
  refine ⟨_, e, (congrArg parseReal (rawValOf_digits h1 h2 h3 h4)).trans hparse, he, ?_⟩
  simp only [Numeric.value, hdpfrac]
  rw [zpow_sub₀ (by norm_num), zpow_natCast]
  ring

/-- What the Reading holds besides the raw bytes and the raw and reserved flags is made of the digits and the four named
sets. -/
theorem assemble_congr {f g : Fields} (n : Nat) (hd : f.digits = g.digits)
    (hscale : f.flags.scaleSet = g.flags.scaleSet) (hunit : f.flags.unitSet = g.flags.unitSet)
    (hsubmode : f.flags.submodeSet = g.flags.submodeSet) (hmode : f.flags.modeSet = g.flags.modeSet) :
    let r := assemble f n
    let q := assemble g n
    r.sane = q.sane ∧ r.reason = q.reason ∧ r.rawVal = q.rawVal ∧ r.numeric = q.numeric ∧
      r.measurement = q.measurement ∧ r.scale = q.scale ∧ r.acdc = q.acdc ∧ r.delta = q.delta := by
  obtain ⟨_, _, ⟨_, _, _, _, _, _⟩⟩ := f
  obtain ⟨_, _, ⟨_, _, _, _, _, _⟩⟩ := g
  cases hd
  cases hscale
  cases hunit
  cases hsubmode
  cases hmode
  exact ⟨rfl, rfl, rfl, rfl, rfl, rfl, rfl, rfl⟩

/-- A named identity is in the FlagSets of both of two frames that differ in reserved bits only, or in neither. -/
theorem has_frameFlags_congr {c : Config} {F G : Frame}
    (h : ∀ (p : FlagPos) (j : Fin 4), c.flagTable p j ≠ .reserved → F.flagSet p j = G.flagSet p j) {x : FlagId}
    (hx : ∀ p j, x ≠ .reserved p j) : (frameFlags c F).has x ↔ (frameFlags c G).has x := by
  have named : ∀ p j, x = identityAt (c.flagTable p j) p j → F.flagSet p j = G.flagSet p j := by
    intro p j hid
    refine h p j fun hres => hx p j ?_
    rw [hid, hres, identityAt]
  simp only [has_frameFlags]
  refine exists₂_congr fun p j => and_congr_left fun hid => ?_
  rw [named p j hid]

/-- Settles O48: the slots have the same words, and each named set is the strictly rising list of the same members. -/
theorem reservedBitsInfluenceNothing : Obligations.ReservedBitsInfluenceNothing := by
  intro c F G n hslots hflags r q
  have hd : (decodeFrame c F).digits = (decodeFrame c G).digits := by
    simp only [decodeFrame, frameSlot, Frame.slotFb, Frame.slotKeyOf, hslots]
  have hF := frameFlags_canonical c F
  have hG := frameFlags_canonical c G
  have hscale : (decodeFrame c F).flags.scaleSet = (decodeFrame c G).flags.scaleSet :=
    rising_ext scaleCode_injective hF.scale hG.scale fun x => has_frameFlags_congr hflags (x := .scale x) nofun
  have hunit : (decodeFrame c F).flags.unitSet = (decodeFrame c G).flags.unitSet :=
    rising_ext unitCode_injective hF.unit hG.unit fun x => has_frameFlags_congr hflags (x := .unit x) nofun
  have hsubmode : (decodeFrame c F).flags.submodeSet = (decodeFrame c G).flags.submodeSet :=
    rising_ext submodeCode_injective hF.submode hG.submode fun x =>
      has_frameFlags_congr hflags (x := .submode x) nofun
  have hmode : (decodeFrame c F).flags.modeSet = (decodeFrame c G).flags.modeSet :=
    rising_ext modeCode_injective hF.mode hG.mode fun x => has_frameFlags_congr hflags (x := .mode x) nofun
  obtain ⟨hsane, hreason, hrawVal, hnumeric, hmeasurement, hscaleField, hacdc, hdelta⟩ :=
    assemble_congr n hd hscale hunit hsubmode hmode
  exact ⟨hsane, hreason, hrawVal, hnumeric, hmeasurement, hscaleField, hacdc, hdelta, hd, hscale, hunit, hsubmode,
    hmode⟩

end Sys2Proof.Machine
end
